-- ==== Sys2Proof/Word.lean ====
section
/-! DEFINITION. The word types of the KT240's two serial links. Quantities the manual only counts or
compares are natural numbers; bytes on a link, the item key and the wrapping counters are bit vectors. -/

namespace Sys2Proof

/-- One UART character's data bits (R91, R179). -/
abbrev Byte := BitVec 8

end Sys2Proof
end

