-- ==== Sys2Proof/Syntax.lean ====
section
/-! DEFINITION. The commands of the KT240: one constructor for each row of spec/opcode_table.json, events of
the part and its partners first, then the host requests of R196, then the two byte events.

A host request's operands are the fields of its payload AS CARRIED (R180): a number is the value of its bytes,
so 255 in an index field is the byte 0xFF, and the owning block judges it. Fields the manual treats as bits
are bit vectors. An event's operands are what the world outside the model decides: the bytes that arrive, how
a record write ended, how far an erase had come (notes/assumptions/6.md, 7.md). -/

namespace Sys2Proof

/-- What a slot whose write a power loss cut off may read as (R163, R176). -/
inductive Tear where
  | oldRecord
  | newRecord
  | invalid
  deriving DecidableEq, Repr

/-- How a record write ended (R168): verified, or differing from its copy with the slot then reading as
blank, as its old record, or as invalid. -/
inductive WriteResult where
  | verified
  | leftBlank
  | leftOld
  | leftInvalid
  deriving DecidableEq, Repr

/-- A label field as carried: a character count and eight character bytes (R180). -/
structure LabelField where
  count : Nat
  chars : List Byte
  deriving DecidableEq, Repr

/-- The weights of classes 0 to 3 (R1, R180). -/
structure ClassWeights where
  class0 : Nat
  class1 : Nat
  class2 : Nat
  class3 : Nat
  deriving DecidableEq, Repr

/-- The settings ASSIGN ELEMENT carries, as carried (R12). -/
structure SettingFields where
  kind : Nat
  transport : Nat
  label : LabelField
  weights : ClassWeights
  runWeight : Nat
  jamWeight : Nat
  modeSet : BitVec 8
  advisory : Nat
  due : Nat
  limit : Nat
  quota : Nat
  group : Nat
  cost : Nat
  policy : Nat
  deriving DecidableEq, Repr

/-- The eight settings SET WEIGHTS carries, as carried (R21). -/
structure WeightFields where
  weights : ClassWeights
  runWeight : Nat
  jamWeight : Nat
  modeSet : BitVec 8
  group : Nat
  cost : Nat
  policy : Nat
  label : LabelField
  deriving DecidableEq, Repr

/-- The eleven options SET OPTIONS carries, as carried (R188). -/
structure OptionFields where
  intervalLength : Nat
  horizon : Nat
  companionPercent : Nat
  slipLimit : Nat
  slipSetCount : Nat
  slipClearCount : Nat
  slipFactor : Nat
  minimumDrive : Nat
  answerTimeout : Nat
  deferral : Nat
  autoSave : Nat
  deriving DecidableEq, Repr

/-- The commands, one constructor per row of the table. -/
inductive Instr where
  /-- POWER_ON (R173). -/
  | powerOn
  /-- RESET_PIN (R173, R178): where an erase is running, `erased` is the place of the slot in progress
  (0 the header, n + 1 element n). -/
  | resetPin (erased : Nat)
  /-- POWER_LOSS (R176, R178): how the slot of a cut-off record write reads; where an erase is running, the
  place of the slot in progress and whether it is left torn. -/
  | powerLoss (tear : Tear) (erased : Nat) (eraseTorn : Bool)
  /-- STARTUP_END (R175). -/
  | startupEnd
  /-- LINE_RECORD_ARRIVAL (R94): the bytes of the record not received before, the last of which completes it. -/
  | lineRecordArrival (bytes : List Byte)
  /-- LINE_RECORD_ABANDONED (R93). -/
  | lineRecordAbandoned
  /-- TAKE_RECORD (R27). -/
  | takeRecord
  /-- LINE_TX_SENT (R107). -/
  | lineTxSent
  /-- HOLD_TIMER_EXPIRY of one slot (R119, R122). -/
  | holdTimerExpiry (slot : Nat)
  /-- MINUTE_TICK (R128). -/
  | minuteTick
  /-- DEFERRAL_END (R120). -/
  | deferralEnd
  /-- WINDOW_EXPIRY (R145). -/
  | windowExpiry
  /-- INTERVAL_BOUNDARY (R129). -/
  | intervalBoundary
  /-- CHECKPOINT_RECORD_WRITTEN (R168). -/
  | checkpointRecordWritten (result : WriteResult)
  /-- HOST_FRAME_COMPLETE (R183): the bytes of the frame not received before, the last of which completes it. -/
  | hostFrameComplete (bytes : List Byte)
  /-- HOST_FRAME_ABANDONED (R181). -/
  | hostFrameAbandoned
  /-- HOST_REPLY_SENT (R183). -/
  | hostReplySent
  /-- BUSY_REPLY_SENT (R183). -/
  | busyReplySent
  /-- NOTICE_SENT (R194). -/
  | noticeSent
  /-- STATUS (R187). -/
  | status
  /-- SET CLOCK (R132). -/
  | setClock (value : Nat)
  /-- START (R186). -/
  | start
  /-- STOP (R186). -/
  | stop
  /-- RESTART (R177). -/
  | restart
  /-- WIPE (R178). -/
  | wipe
  /-- SET OPTIONS (R188). -/
  | setOptions (fields : OptionFields)
  /-- READ OPTIONS (R188). -/
  | readOptions
  /-- CLEAR COUNTS (R189). -/
  | clearCounts
  /-- ASSIGN ELEMENT (R12). -/
  | assignElement (index : Nat) (fields : SettingFields) (accumulator : Nat)
  /-- REPLACE ELEMENT (R15). -/
  | replaceElement (index : Nat)
  /-- RETIRE ELEMENT (R17). -/
  | retireElement (index : Nat)
  /-- SET THRESHOLDS (R19). -/
  | setThresholds (index advisory due limit : Nat)
  /-- SET WEIGHTS (R21). -/
  | setWeights (index : Nat) (fields : WeightFields)
  /-- READ ELEMENT (R23). -/
  | readElement (index : Nat)
  /-- LIST ELEMENTS (R24). -/
  | listElements (first : Nat) (stateFilter : BitVec 8) (transportFilter : Nat)
  /-- WAIVE HOLD (R125). -/
  | waiveHold (index setting : Nat)
  /-- SET WATCH (R47). -/
  | setWatch (element : Nat)
  /-- READ WATCH (R49). -/
  | readWatch
  /-- ARM CAPTURE (R50). -/
  | armCapture (level scope : Nat)
  /-- READ CAPTURE (R53). -/
  | readCapture
  /-- SET MASK (R64). -/
  | setMask (index : Nat) (value : BitVec 16)
  /-- SET ROUTE (R65). -/
  | setRoute (index enabled : Nat) (pattern : BitVec 16) (maskIndex : Nat) (path : List Nat)
  /-- CLEAR ROUTE (R66). -/
  | clearRoute (index : Nat)
  /-- SET COMMON PATH (R67). -/
  | setCommonPath (path : List Nat)
  /-- READ ROUTE (R69). -/
  | readRoute (selector : Nat)
  /-- READ ROUTE COUNTS (R70). -/
  | readRouteCounts (clear : Nat)
  /-- READ TRANSPORT (R89). -/
  | readTransport (index : Nat)
  /-- READ INTERVAL COUNTS (R90). -/
  | readIntervalCounts (first number : Nat)
  /-- READ HOLDS (R126). -/
  | readHolds
  /-- ABORT HOLD (R123). -/
  | abortHold (slot : Nat)
  /-- RELEASE HOLD (R124). -/
  | releaseHold (transport : Nat)
  /-- ADD WINDOW (R143). -/
  | addWindow (start length capacity : Nat)
  /-- REMOVE WINDOW (R144). -/
  | removeWindow (slot : Nat)
  /-- PIN (R158). -/
  | pin (element slot : Nat)
  /-- UNPIN (R159). -/
  | unpin (element : Nat)
  /-- REPLAN (R160). -/
  | replan
  /-- READ PLAN (R161). -/
  | readPlan (first : Nat)
  /-- READ WINDOWS (R162). -/
  | readWindows (first : Nat)
  /-- SAVE (R171). -/
  | save
  /-- READ SAVE STATUS (R172). -/
  | readSaveStatus
  /-- FETCH ALERTS (R192). -/
  | fetchAlerts (mask : BitVec 32)
  /-- SET NOTICE MASK (R193). -/
  | setNoticeMask (mask : BitVec 32)
  /-- LINE_BYTE_RECEIVED (R92). -/
  | lineByteReceived (byte : Byte)
  /-- HOST_BYTE_RECEIVED (R181). -/
  | hostByteReceived (byte : Byte)
  deriving DecidableEq, Repr

end Sys2Proof
end

