-- ==== Sys2Proof/WellFormed.lean ====
section
/-! DEFINITION. What a command of the environment can carry: a request's fields fit the widths R180 gives them
and its frame the length limit of R179; an event names a slot that exists. `exec` does not ask for it: a field
out of its RANGE (not its width) is refused by the part itself (R2 and the requests' own rules). -/

namespace Sys2Proof

/-- The field takes one byte (R180). -/
def fits8 (n : Nat) : Bool := n < 256

/-- The field takes two bytes (R180). -/
def fits16 (n : Nat) : Bool := n < 65536

/-- The field takes four bytes (R180). -/
def fits32 (n : Nat) : Bool := n < 4294967296

/-- A label field is a count byte and eight character bytes (R180). -/
def LabelField.wf (l : LabelField) : Bool := fits8 l.count && l.chars.length == 8

def ClassWeights.wf (w : ClassWeights) : Bool :=
  fits8 w.class0 && fits8 w.class1 && fits8 w.class2 && fits8 w.class3

def SettingFields.wf (f : SettingFields) : Bool :=
  fits8 f.kind && fits8 f.transport && f.label.wf && f.weights.wf && fits8 f.runWeight &&
  fits16 f.jamWeight && fits32 f.advisory && fits32 f.due && fits32 f.limit && fits16 f.quota &&
  fits8 f.group && fits8 f.cost && fits8 f.policy

def WeightFields.wf (f : WeightFields) : Bool :=
  f.weights.wf && fits8 f.runWeight && fits16 f.jamWeight && fits8 f.group && fits8 f.cost &&
  fits8 f.policy && f.label.wf

def OptionFields.wf (o : OptionFields) : Bool :=
  fits8 o.intervalLength && fits16 o.horizon && fits8 o.companionPercent && fits16 o.slipLimit &&
  fits8 o.slipSetCount && fits8 o.slipClearCount && fits8 o.slipFactor && fits16 o.minimumDrive &&
  fits16 o.answerTimeout && fits8 o.deferral && fits8 o.autoSave

/-- A path's entries are bytes, and a payload of `fixed` bytes and the path is at most 240 bytes (R179). -/
def pathWf (fixed : Nat) (path : List Nat) : Bool := path.all fits8 && fixed + path.length ≤ 240

/-- Bytes that can complete a record or a frame: at least its last byte, at most the longest one whole
(R91: 260 bytes; R179: 245 bytes). -/
def bytesWf (longest : Nat) (bytes : List Byte) : Bool := bytes ≠ [] && bytes.length ≤ longest

def Instr.wf : Instr → Bool
  | .powerOn | .startupEnd | .lineRecordAbandoned | .takeRecord | .lineTxSent | .minuteTick
  | .deferralEnd | .windowExpiry | .intervalBoundary | .checkpointRecordWritten _
  | .hostFrameAbandoned | .hostReplySent | .busyReplySent | .noticeSent => true
  | .resetPin erased => erased ≤ 240
  | .powerLoss _ erased _ => erased ≤ 240
  | .lineRecordArrival bytes => bytesWf 260 bytes
  | .holdTimerExpiry slot => slot < 4
  | .hostFrameComplete bytes => bytesWf 245 bytes
  | .status | .start | .stop | .restart | .wipe | .readOptions | .clearCounts | .readWatch
  | .readCapture | .readHolds | .replan | .save | .readSaveStatus => true
  | .setClock value => fits32 value
  | .setOptions fields => fields.wf
  | .assignElement index fields accumulator => fits8 index && fields.wf && fits32 accumulator
  | .replaceElement index | .retireElement index | .readElement index => fits8 index
  | .setThresholds index advisory due limit =>
      fits8 index && fits32 advisory && fits32 due && fits32 limit
  | .setWeights index fields => fits8 index && fields.wf
  | .listElements first _ transportFilter => fits8 first && fits8 transportFilter
  | .waiveHold index setting => fits8 index && fits8 setting
  | .setWatch element => fits8 element
  | .armCapture level scope => fits8 level && fits8 scope
  | .setMask index _ => fits8 index
  | .setRoute index enabled _ maskIndex path =>
      fits8 index && fits8 enabled && fits8 maskIndex && pathWf 6 path
  | .clearRoute index => fits8 index
  | .setCommonPath path => pathWf 1 path
  | .readRoute selector => fits8 selector
  | .readRouteCounts clear => fits8 clear
  | .readTransport index => fits8 index
  | .readIntervalCounts first number => fits8 first && fits8 number
  | .abortHold slot => fits8 slot
  | .releaseHold transport => fits8 transport
  | .addWindow startAt length capacity => fits32 startAt && fits16 length && fits8 capacity
  | .removeWindow slot => fits8 slot
  | .pin element slot => fits8 element && fits8 slot
  | .unpin element => fits8 element
  | .readPlan first => fits8 first
  | .readWindows first => fits8 first
  | .fetchAlerts _ | .setNoticeMask _ | .lineByteReceived _ | .hostByteReceived _ => true

end Sys2Proof
end

