-- ==== Sys2Proof/Decode.lean ====
section
/-! DEFINITION. The table's own words. No row of spec/opcode_table.json gives a command any bits (every row's
"fields" is empty), so no word of the table spells a command. The codes and payloads of the host requests (R179,
R180, R196) are bytes of a host frame and are read by `decodeRequest` in Machine/Operands.lean. -/

namespace Sys2Proof

/-- No row of the table gives bits, so no word spells a command. -/
def decodeTableWord (_nbits _w : Nat) : Option Instr := none

end Sys2Proof
end

