-- ==== Sys2Proof/Config.lean ====
section
/-! DEFINITION. The one value the model leaves free. Every other constant of the manual is fixed by a rule
and stands where it is used. -/

namespace Sys2Proof

/-- FREE VALUE (DESIGN CHOICE, notes/assumptions/3.md; safe). The model has no millisecond clock, so how much
of a running hold slot timer is left when READ HOLDS is answered (R111, R126) is open. It is applied to a
plain counter of State, and the answer is held within 1 and the milliseconds the timer was started with. -/
opaque Config.timerSample : Nat → Nat

end Sys2Proof
end

