-- ==== Sys2Proof/Machine/State.lean ====
section
/-! DEFINITION. The state of the KT240 as plain data, one structure for each block of 00_scope.md section 2,
and the state right after reset. What a rule calls a field that follows from other fields (bytes used, a
window's end, the checkpoint cursor, the invalid count of a sample window) is computed where it is read and
stored nowhere (notes/assumptions/19.md). -/

namespace Sys2Proof.Machine

/-! ### The part -/

/-- R186. -/
inductive EngineState where
  | starting
  | stopped
  | counting
  deriving DecidableEq, Repr

/-- The line mode (R29). -/
inductive LineMode where
  | idle
  | sort
  | test
  | jog
  | purge
  deriving DecidableEq, Repr

/-- The run charges of a tick that are still to be made: the minute the tick carries, and the element examined
next (R39, R40). -/
structure RunPass where
  carried : Option Nat
  next : Nat
  deriving DecidableEq, Repr

/-- Where the element table stands with a boundary (R28, R136): not reached by it, waiting for the record in
work, or rolling with the element examined next. -/
inductive RollPhase where
  | due
  | waits
  | rolling (next : Nat)
  deriving DecidableEq, Repr

/-- A boundary at the element table, with the minute its tick carries (R128, R135). -/
structure BoundaryMark where
  carried : Option Nat
  phase : RollPhase
  deriving DecidableEq, Repr

/-- The minute timer (R128, R129). The last five fields hold what the blocks have still to do for the last tick
(notes/assumptions/4.md, 5.md): the hold unit, the plan unit with the plant minute the tick carries, the element
table with its run charges and with the boundary, and the transport monitor with the boundary. -/
structure MinuteTimer where
  running : Bool
  intervalCount : Nat
  holdTick : Bool
  planTick : Option (Option Nat)
  runs : Option RunPass
  boundary : Option BoundaryMark
  snapshot : Bool
  deriving DecidableEq, Repr

/-- The timer with nothing to do for a tick (R128, R129). -/
def MinuteTimer.fresh (running : Bool) : MinuteTimer := ⟨running, 0, false, none, none, none, false⟩

/-- The options (R188). -/
structure Options where
  intervalLength : Nat
  horizon : Nat
  companionPercent : Nat
  slipLimit : Nat
  slipSetCount : Nat
  slipClearCount : Nat
  slipFactor : Nat
  minimumDrive : Nat
  answerTimeout : Nat
  deferral : Nat
  autoSave : Bool
  deriving DecidableEq, Repr

/-- The options after defaults (R188). -/
def Options.defaults : Options where
  intervalLength := 15
  horizon := 10080
  companionPercent := 75
  slipLimit := 30
  slipSetCount := 4
  slipClearCount := 8
  slipFactor := 2
  minimumDrive := 100
  answerTimeout := 2000
  deferral := 5
  autoSave := true

/-! ### Element table (R1) -/

inductive ElementKind where
  | roller
  | belt
  deriving DecidableEq, Repr

inductive HoldPolicy where
  | none
  | hold
  deriving DecidableEq, Repr

/-- The five assigned states (R5). -/
inductive AssignedState where
  | breakIn
  | service
  | advised
  | due
  | limit
  deriving DecidableEq, Repr

/-- The three thresholds of an element (R1, R9). -/
inductive Level where
  | advised
  | due
  | limit
  deriving DecidableEq, Repr

/-- R138. The value 'none' of a VACANT or SUSPECT element is the absence of a projection. -/
inductive Projection where
  | minute (value : Nat)
  | now
  | never
  | unknown
  deriving DecidableEq, Repr

/-- The settings of R1. -/
structure Settings where
  kind : ElementKind
  transport : Nat
  label : List Byte
  weights : ClassWeights
  runWeight : Nat
  jamWeight : Nat
  modeSet : BitVec 8
  advisory : Nat
  due : Nat
  limit : Nat
  quota : Nat
  group : Option Nat
  cost : Nat
  policy : HoldPolicy
  deriving DecidableEq, Repr

/-- The milestones-reported flags (R9). -/
structure Milestones where
  advisory : Bool
  due : Bool
  limit : Bool
  deriving DecidableEq, Repr

/-- What a checkpoint saves of an assigned element (R165). -/
structure Account where
  settings : Settings
  state : AssignedState
  accumulator : Nat
  breakInRemaining : Nat
  passages : Nat
  runMinutes : Nat
  history : List Nat
  intervals : Nat
  milestones : Milestones
  waived : Bool
  deriving DecidableEq, Repr

/-- An assigned element: its account and the two fields that are not saved (R25). -/
structure Fitting extends Account where
  intervalWear : Nat
  projection : Projection
  deriving DecidableEq, Repr

/-- The state of a position with what is present in it (R1, R5). -/
inductive Position where
  | vacant
  | suspect
  | assigned (fitting : Fitting)
  deriving DecidableEq, Repr

/-- One element record; its index is its place in the table (R1). -/
structure Element where
  generation : BitVec 16
  position : Position
  deriving DecidableEq, Repr

/-- A position that holds no element (R25: a blank slot). -/
def Element.vacant : Element := ⟨0, .vacant⟩

/-! ### Wear engine (R26) -/

/-- An ITEM record's fields (R97). -/
structure Item where
  serial : Nat
  destination : Nat
  thickness : Nat
  length : Nat
  reject : Bool
  recirculated : Bool
  deriving DecidableEq, Repr

/-- The records that are queued in the intake (R99). -/
inductive LineRecord where
  | item (item : Item)
  | mode (mode : LineMode)
  | tach (transport drive belt : Nat) (valid : Bool)
  | jam (transport severity : Nat)
  deriving DecidableEq, Repr

/-- The source of a watch ring entry (R48). -/
inductive WatchSource where
  | item (serial : Nat)
  | run
  | jam
  deriving DecidableEq, Repr

/-- R48. -/
structure WatchEntry where
  source : WatchSource
  units : Nat
  after : Nat
  deriving DecidableEq, Repr

/-- The source of a milestone with the item's details where it has one (R9, R52). -/
inductive MilestoneSource where
  | item (serial destination thickness length : Nat)
  | run
  | jam
  | setting
  | assign
  deriving DecidableEq, Repr

/-- R50: scope none stands for any element. -/
structure Trigger where
  level : Level
  scope : Option Nat
  deriving DecidableEq, Repr

/-- R52. -/
structure CaptureRecord where
  element : Nat
  level : Level
  source : MilestoneSource
  mode : LineMode
  minute : Option Nat
  after : Nat
  deriving DecidableEq, Repr

/-- R50. -/
inductive Capture where
  | disarmed
  | armed (trigger : Trigger)
  | filled (trigger : Trigger) (record : CaptureRecord)
  deriving DecidableEq, Repr

/-- What is left of the work of a record that has been taken (R27, R28): the positions of an ITEM's path not yet
reached, with the transports charged so far (R34, R38); for a JAM the element examined next, and whether an element
has been charged (R42). -/
inductive RecordWork where
  | item (item : Item) (path transports : List Nat)
  | jam (transport severity next : Nat) (charged : Bool)
  deriving DecidableEq, Repr

/-- R26; `work` is the record whose work is in progress (R27, R28). -/
structure WearEngine where
  mode : LineMode
  received : BitVec 32
  counted : BitVec 32
  notCounted : BitVec 32
  lost : BitVec 32
  watched : Option Nat
  ring : List WatchEntry
  capture : Capture
  work : Option RecordWork
  deriving DecidableEq, Repr

/-! ### Route map (R54) -/

structure Route where
  enabled : Bool
  pattern : BitVec 16
  maskIndex : Nat
  path : List Nat
  deriving DecidableEq, Repr

/-- A route in its empty form (R66). -/
def Route.empty : Route := ⟨false, 0, 0, []⟩

structure RouteMap where
  masks : Vector (BitVec 16) 8
  routes : Vector Route 32
  commonPath : List Nat
  matchCounts : Vector (BitVec 32) 32
  unrouted : BitVec 32
  deriving DecidableEq, Repr

/-! ### Transport monitor (R71) -/

inductive SlipState where
  | clear
  | slipping
  deriving DecidableEq, Repr

inductive SensorState where
  | good
  | failed
  deriving DecidableEq, Repr

/-- R74; an EVALUATED sample carries its slip per-mille (R75). -/
inductive SampleClass where
  | invalid
  | idle
  | evaluated (perMille : Nat)
  deriving DecidableEq, Repr

structure Sample where
  drive : Nat
  belt : Nat
  classification : SampleClass
  deriving DecidableEq, Repr

/-- The five interval counters (R85). -/
structure IntervalCounters where
  items : Nat
  jams : Nat
  overLimit : Nat
  invalid : Nat
  runningMinutes : Nat
  deriving DecidableEq, Repr

def IntervalCounters.zero : IntervalCounters := ⟨0, 0, 0, 0, 0⟩

structure Transport where
  running : Bool
  slip : SlipState
  overRun : Nat
  goodRun : Nat
  window : List Bool
  validRun : Nat
  sensor : SensorState
  last : Option Sample
  live : IntervalCounters
  snapshot : IntervalCounters
  deriving DecidableEq, Repr

/-- A transport record after start-up (R71). -/
def Transport.fresh : Transport where
  running := false
  slip := .clear
  overRun := 0
  goodRun := 0
  window := []
  validRun := 0
  sensor := .good
  last := none
  live := .zero
  snapshot := .zero

/-! ### Line link (R92, R99, R109) -/

/-- The receive state with the bytes stored in it (R92). -/
inductive LineRx where
  | hunting
  | header (kind : Option Byte)
  | payload (kind : Byte) (length : Nat) (stored : List Byte)
  | check (kind : Byte) (payload : List Byte) (low : Option Byte)
  deriving DecidableEq, Repr

structure LineReceiver where
  rx : LineRx
  intake : List LineRecord
  errors : BitVec 32
  itemOverrun : BitVec 32
  modeOverrun : BitVec 32
  tachOverrun : BitVec 32
  jamOverrun : BitVec 32
  strays : BitVec 32
  deriving DecidableEq, Repr

/-! ### Hold unit (R110 to R112) -/

inductive HoldState where
  | clear
  | waiting
  | asking
  | held
  | deferred (countdown : Nat)
  deriving DecidableEq, Repr

inductive SlotState where
  | free
  | pending
  | sent
  | aborting
  deriving DecidableEq, Repr

inductive SlotOutcome where
  | none
  | granted
  | refused
  | lapsed
  | aborted
  | withdrawn
  deriving DecidableEq, Repr

/-- R111. The timer is idle (none) or running with the milliseconds it was started with
(notes/assumptions/3.md). -/
structure HoldSlot where
  state : SlotState
  transport : Option Nat
  outcome : SlotOutcome
  timer : Option Nat
  deriving DecidableEq, Repr

def HoldSlot.fresh : HoldSlot := ⟨.free, none, .none, none⟩

/-- An entry of the transmit list (R106). -/
inductive TxEntry where
  | request (slot transport : Nat)
  | release (transport : Nat)
  deriving DecidableEq, Repr

/-- The hold unit with the transmit list it fills; `sending` says that the head entry's sending has begun
(R107). -/
structure HoldUnit where
  states : Vector HoldState 32
  slots : Vector HoldSlot 4
  waiting : List Nat
  transmit : List TxEntry
  sending : Bool
  deriving DecidableEq, Repr

/-! ### Plan unit (R142, R146) -/

structure Window where
  start : Nat
  length : Nat
  capacity : Nat
  used : Nat
  pinnedLoad : Nat
  deriving DecidableEq, Repr

inductive Reason where
  | horizon
  | advised
  | due
  | limit
  | companion
  deriving DecidableEq, Repr

structure PlanEntry where
  element : Nat
  generation : BitVec 16
  due : Projection
  reason : Reason
  window : Option Nat
  pinned : Bool
  unplaced : Bool
  cost : Nat
  deriving DecidableEq, Repr

structure PlanUnit where
  windows : Vector (Option Window) 8
  queue : List PlanEntry
  deriving DecidableEq, Repr

/-! ### Checkpoint unit and store (R163 to R166) -/

/-- A store slot: erased, holding a record whose CRC-32 matches, or with contents whose CRC-32 does not
(notes/assumptions/13.md). -/
inductive StoreSlot (α : Type) where
  | blank
  | written (record : α)
  | torn
  deriving DecidableEq, Repr

/-- R164. -/
structure HeaderRecord where
  masks : Vector (BitVec 16) 8
  routes : Vector Route 32
  commonPath : List Nat
  options : Options
  noticeMask : BitVec 19
  engine : EngineState
  sequence : BitVec 32
  deriving DecidableEq, Repr

/-- What an element record holds of its position (R165). -/
inductive SavedPosition where
  | vacant
  | suspect
  | assigned (account : Account)
  deriving DecidableEq, Repr

/-- R165. -/
structure ElementRecord where
  index : Nat
  generation : BitVec 16
  position : SavedPosition
  sequence : BitVec 32
  deriving DecidableEq, Repr

structure Store where
  header : StoreSlot HeaderRecord
  elements : Vector (StoreSlot ElementRecord) 240
  deriving DecidableEq, Repr

/-- A store in which no record has been written since the last erase (R163). -/
def Store.erased : Store := ⟨.blank, Vector.replicate 240 .blank⟩

/-- The copy of the record a checkpoint is writing (R167). -/
inductive RecordCopy where
  | header (record : HeaderRecord)
  | element (index : Nat) (record : ElementRecord)
  deriving DecidableEq, Repr

/-- R166. WRITING is `due` where the record under the cursor is due next, at its place in the order of writing (0 the
header, n + 1 element n), and `writing` where its own write has begun, with the copy then taken (R167). -/
inductive Progress where
  | idle
  | due (place : Nat)
  | writing (copy : RecordCopy)
  | done
  | failed
  deriving DecidableEq, Repr

/-- R174. -/
inductive StartOutcome where
  | fresh
  | restored
  | defaults
  | incomplete
  deriving DecidableEq, Repr

/-- R166. `erasing` says that a WIPE's erase is running (R178), `restored` that the restore of the last start-up
has been made (R173). -/
structure CheckpointUnit where
  progress : Progress
  pending : Bool
  sequence : BitVec 32
  failedSoFar : Nat
  firstFailed : Option Nat
  lastFailed : Nat
  outcome : StartOutcome
  stale : Nat
  suspects : Nat
  erasing : Bool
  restored : Bool
  deriving DecidableEq, Repr

/-! ### Host link (R181 to R184) and alerts (R190, R193) -/

/-- The receive state with the bytes stored in it (R181). -/
inductive HostRx where
  | hunting
  | header
  | payload (length : Nat) (stored : List Byte)
  | check (body : List Byte) (low : Option Byte)
  deriving DecidableEq, Repr

/-- A complete request frame: the bytes its length counts, and the received check. -/
structure HostFrame where
  body : List Byte
  check : BitVec 16
  deriving DecidableEq, Repr

/-- The status values of R196. -/
inductive Status where
  | ok
  | started
  | inProgress
  | badCheck
  | badLength
  | unknownCommand
  | badValue
  | wrongState
  | elementState
  | noRoom
  | notFound
  | clockUnset
  | busy
  | starting
  deriving DecidableEq, Repr

/-- What follows a reply's last byte (R177, R178). -/
inductive AfterReply where
  | nothing
  | restart
  | wipe
  deriving DecidableEq, Repr

/-- A reply, ready to be sent (R179, R185). -/
structure Reply where
  code : Byte
  status : Status
  payload : List Byte
  summary : List Byte
  after : AfterReply
  deriving DecidableEq, Repr

/-- Where the request in hand stands (R183, R184). -/
inductive Phase where
  | executing (request : Instr)
  | ready (reply : Reply)
  | sending (reply : Reply)
  deriving DecidableEq, Repr

/-- The request in hand: its code as received, without which its reply could not be formed, and its phase. -/
structure InHand where
  code : Byte
  phase : Phase
  deriving DecidableEq, Repr

/-- The frame the host transmitter is sending: a BUSY reply with its code, the reply of the request in hand, or
a notice with its fields as they stood when its sending began (R184, R194). -/
inductive HostTx where
  | busy (code : Byte)
  | reply
  | notice (kind subject : Nat) (minute : Option Nat)
  deriving DecidableEq, Repr

structure HostLink where
  rx : HostRx
  inHand : Option InHand
  held : Option HostFrame
  busy : List Byte
  tx : Option HostTx
  deriving DecidableEq, Repr

/-- The alert latch, the pending set and the notice mask; bit n is alert kind n (R190, R193). -/
structure AlertUnit where
  latched : BitVec 19
  subjects : Vector Nat 19
  marks : BitVec 19
  mask : BitVec 19
  deriving DecidableEq, Repr

/-! ### The whole -/

/-- The model's own: what the manual leaves to time, as plain data that no rule constrains (FREE VALUES,
notes/assumptions/4.md, 2.md). `cuts` says of each operation that spans several acts, in the order in which its
rows are executed, how many acts are made before other events come between (none: all that are left). `prompts`
says of each held request that the end of a reply dispatches whether its work is complete when the host transmitter
next chooses. An empty list leaves every row whole, and every such request to its own row. -/
structure Schedule where
  cuts : List (Option Nat)
  prompts : List Bool
  deriving DecidableEq, Repr

/-- The KT240. `pending` is the queue of commands, first in, first out; `freeCount` is the model's own counter
for free values, and `schedule` the model's own too. -/
structure State where
  powered : Bool
  engine : EngineState
  clock : Option Nat
  timer : MinuteTimer
  options : Options
  elements : Vector Element 240
  wear : WearEngine
  routes : RouteMap
  transports : Vector Transport 32
  snapshotTaken : Bool
  line : LineReceiver
  hold : HoldUnit
  plan : PlanUnit
  ckpt : CheckpointUnit
  store : Store
  host : HostLink
  alerts : AlertUnit
  freeCount : Nat
  schedule : Schedule
  pending : List Instr
  deriving DecidableEq, Repr

/-- No command of the block stops it: the manual gives every event an effect, or the event cannot occur and
changes nothing (notes/assumptions/10.md). -/
inductive Fault where
  deriving DecidableEq, Repr

/-- The host's form asks for this type. -/
inductive Refusal where
  /-- Raised by no arm of `exec`: every command has its meaning. A refusal would be safe. -/
  | notModelled (mnemonic : String)
  deriving DecidableEq, Repr

/-! ### Values after start-up -/

/-- R26. -/
def WearEngine.fresh : WearEngine := ⟨.idle, 0, 0, 0, 0, none, [], .disarmed, none⟩

/-- R54, header blank or invalid. -/
def RouteMap.fresh : RouteMap where
  masks := Vector.replicate 8 0
  routes := Vector.replicate 32 .empty
  commonPath := []
  matchCounts := Vector.replicate 32 0
  unrouted := 0

/-- R92, R99, R109. -/
def LineReceiver.fresh : LineReceiver := ⟨.hunting, [], 0, 0, 0, 0, 0, 0⟩

/-- R106, R110 to R112. -/
def HoldUnit.fresh : HoldUnit where
  states := Vector.replicate 32 .clear
  slots := Vector.replicate 4 .fresh
  waiting := []
  transmit := []
  sending := false

/-- R142, R146. -/
def PlanUnit.fresh : PlanUnit := ⟨Vector.replicate 8 none, []⟩

/-- R166, with the outcome of a start-up from an erased store (R174). -/
def CheckpointUnit.fresh : CheckpointUnit where
  progress := .idle
  pending := false
  sequence := 0
  failedSoFar := 0
  firstFailed := none
  lastFailed := 0
  outcome := .fresh
  stale := 0
  suspects := 0
  erasing := false
  restored := true

/-- R181, R195. -/
def HostLink.fresh : HostLink := ⟨.hunting, none, none, [], none⟩

/-- R190, R191, R193: the latch is emptied, then CLOCK_UNSET (kind 17) is set and marked under the default
notice mask. -/
def AlertUnit.fresh : AlertUnit where
  latched := 0x20000
  subjects := Vector.replicate 19 0
  marks := 0x20000
  mask := 0x7BFFF

/-- The part right after reset: after a start-up that found an erased store (R173 to R175, R178:
outcome FRESH, engine state STOPPED), with no command waiting. DESIGN CHOICE, notes/assumptions/1.md. -/
def State.reset : State where
  powered := true
  engine := .stopped
  clock := none
  timer := .fresh true
  options := .defaults
  elements := Vector.replicate 240 .vacant
  wear := .fresh
  routes := .fresh
  transports := Vector.replicate 32 .fresh
  snapshotTaken := false
  line := .fresh
  hold := .fresh
  plan := .fresh
  ckpt := .fresh
  store := .erased
  host := .fresh
  alerts := .fresh
  freeCount := 0
  schedule := ⟨[], []⟩
  pending := []

end Sys2Proof.Machine
end

