-- ==== Sys2Proof/Machine/Ops.lean ====
section
/-! DEFINITION. Helpers every block uses: reading and writing tables, saturating counts, bytes and their order,
the two checks, and access to elements and transports. -/

namespace Sys2Proof.Machine

/-! ### Tables -/

/-- The entry at `i`, or `d` where the table has no place `i`. -/
def tget {α : Type} {n : Nat} (v : Vector α n) (i : Nat) (d : α) : α := v.toArray.toList.getD i d

/-- The table with `x` at place `i`; a place the table does not have is not written. -/
def tset {α : Type} {n : Nat} (v : Vector α n) (i : Nat) (x : α) : Vector α n :=
  ⟨⟨v.toArray.toList.set i x⟩, by simp⟩

/-- The table with `f` applied to every entry. -/
def tmap {α β : Type} {n : Nat} (f : α → β) (v : Vector α n) : Vector β n :=
  ⟨⟨v.toArray.toList.map f⟩, by simp⟩

/-- The table with `f` applied to `count` entries from place `first` on. -/
def tslice {α : Type} {n : Nat} (f : α → α) (first count : Nat) (v : Vector α n) : Vector α n :=
  ⟨⟨v.toArray.toList.zipIdx.map fun x => if first ≤ x.2 ∧ x.2 < first + count then f x.1 else x.1⟩, by simp⟩

/-- The entries in index order. -/
def tlist {α : Type} {n : Nat} (v : Vector α n) : List α := v.toArray.toList

/-- The entries with their indexes, in index order. -/
def tenum {α : Type} {n : Nat} (v : Vector α n) : List (α × Nat) := v.toArray.toList.zipIdx

/-! ### Counts -/

/-- The largest value of the 32-bit saturating counts (R1). -/
abbrev max32 : Nat := 4294967295

/-- The largest value of the 16-bit saturating counts (R71, R135). -/
abbrev max16 : Nat := 65535

/-- The largest plant minute (00_scope.md 4.4). -/
abbrev maxMinute : Nat := 4294967294

/-- A saturating addition (00_scope.md 4.3). -/
def satAdd (top a b : Nat) : Nat := min (a + b) top

/-! ### Bytes; multi-byte fields go least significant byte first (R91, R179) -/

def u8 (n : Nat) : List Byte := [BitVec.ofNat 8 n]

def u16 (n : Nat) : List Byte := [BitVec.ofNat 8 n, BitVec.ofNat 8 (n / 256)]

def u32 (n : Nat) : List Byte :=
  [BitVec.ofNat 8 n, BitVec.ofNat 8 (n / 256), BitVec.ofNat 8 (n / 65536), BitVec.ofNat 8 (n / 16777216)]

/-- The byte at offset `k`. -/
def byteAt (p : List Byte) (k : Nat) : Nat := (p.getD k 0).toNat

def u16At (p : List Byte) (k : Nat) : Nat := byteAt p k + 256 * byteAt p (k + 1)

def u32At (p : List Byte) (k : Nat) : Nat :=
  byteAt p k + 256 * byteAt p (k + 1) + 65536 * byteAt p (k + 2) + 16777216 * byteAt p (k + 3)

/-- Yes and no in one byte (R180). -/
def flag (b : Bool) : List Byte := u8 (if b then 1 else 0)

/-! ### Checks -/

def crc16Bit (crc : BitVec 16) : BitVec 16 :=
  if crc.msb then (crc <<< 1) ^^^ 0x1021 else crc <<< 1

/-- One byte of the CRC-16, most significant bit first (R91). -/
def crc16Byte (crc : BitVec 16) (b : Byte) : BitVec 16 :=
  crc16Bit (crc16Bit (crc16Bit (crc16Bit (crc16Bit (crc16Bit (crc16Bit (crc16Bit
    (crc ^^^ (b.setWidth 16 <<< 8)))))))))

/-- The CRC-16 of both links: polynomial 0x1021, initial value 0xFFFF, not reflected, not inverted (R91, R179). -/
def crc16 (bytes : List Byte) : BitVec 16 := bytes.foldl crc16Byte 0xFFFF

def crc32Bit (crc : BitVec 32) : BitVec 32 :=
  if crc.getLsbD 0 then (crc >>> 1) ^^^ 0xEDB88320 else crc >>> 1

/-- One byte of the CRC-32, least significant bit first: 0xEDB88320 is 0x04C11DB7 with its bits reversed (R163). -/
def crc32Byte (crc : BitVec 32) (b : Byte) : BitVec 32 :=
  crc32Bit (crc32Bit (crc32Bit (crc32Bit (crc32Bit (crc32Bit (crc32Bit (crc32Bit
    (crc ^^^ b.setWidth 32))))))))

/-- The CRC-32 of a store record's bytes (R163). The spec gives a record's fields and not its bytes, so a slot's
condition is plain data and this function is for a reader of the store alone (notes/assumptions/13.md). -/
def crc32 (bytes : List Byte) : BitVec 32 := ~~~ bytes.foldl crc32Byte 0xFFFFFFFF

/-- A received or sent check: low byte, then high byte (R91, R179). -/
def checkOf (low high : Byte) : BitVec 16 := high ++ low

def checkBytes (c : BitVec 16) : List Byte := [c.setWidth 8, (c >>> 8).setWidth 8]

/-! ### Elements -/

/-- The element record at an index; an index above 239 reads as VACANT and is never written
(notes/assumptions/10.md). -/
def State.element (s : State) (i : Nat) : Element := tget s.elements i .vacant

def State.setElement (s : State) (i : Nat) (e : Element) : State :=
  { s with elements := tset s.elements i e }

/-- The element indexes from `next` on, in the order of every pass over the table (R39, R42, R135). -/
def indexesFrom (next : Nat) : List Nat := List.range' next (240 - next)

/-- What is fitted at a position, if the element is assigned (R5). -/
def Element.fitting? (e : Element) : Option Fitting :=
  match e.position with
  | .assigned f => some f
  | .vacant => none
  | .suspect => none

/-- The settings, counts and reported fields of an assigned element at an index. -/
def State.fitting? (s : State) (i : Nat) : Option Fitting := (s.element i).fitting?

/-- The table with the fitting at an index replaced, its generation kept. -/
def State.setFitting (s : State) (i : Nat) (f : Fitting) : State :=
  s.setElement i { s.element i with position := .assigned f }

/-- R5: SUSPECT. -/
def Element.isSuspect (e : Element) : Bool :=
  match e.position with
  | .suspect => true
  | .vacant => false
  | .assigned _ => false

/-- Some element is SUSPECT (R186, R174). -/
def State.anySuspect (s : State) : Bool := (tlist s.elements).any Element.isSuspect

/-- ADVISED, DUE or LIMIT (R10). -/
def AssignedState.reachedAdvisory : AssignedState → Bool
  | .breakIn | .service => false
  | .advised | .due | .limit => true

/-- DUE or LIMIT, the states whose projection is NOW (R138). -/
def AssignedState.reachedDue : AssignedState → Bool
  | .breakIn | .service | .advised => false
  | .due | .limit => true

/-- R6. -/
def thresholdState (accumulator advisory due limit : Nat) : AssignedState :=
  if accumulator < advisory then .service
  else if accumulator < due then .advised
  else if accumulator < limit then .due
  else .limit

/-! ### Transports -/

def State.transport (s : State) (t : Nat) : Transport := tget s.transports t .fresh

def State.setTransport (s : State) (t : Nat) (r : Transport) : State :=
  { s with transports := tset s.transports t r }

/-- The hold wish of a transport, read from the element records (R11, R113). -/
def wishOf (elements : Vector Element 240) (t : Nat) : Bool :=
  (tlist elements).any fun e =>
    match e.position with
    | .assigned f =>
        f.state == .limit && f.settings.transport == t && f.settings.policy == .hold && !f.waived
    | .vacant => false
    | .suspect => false

def State.wish (s : State) (t : Nat) : Bool := wishOf s.elements t

/-! ### The schedule (notes/assumptions/2.md, 4.md) -/

/-- How many acts the operation now going on makes before other events come between; none stands for all. -/
def State.cut (s : State) : Option Nat := s.schedule.cuts.headD none

def State.cutTaken (s : State) : State := { s with schedule := { s.schedule with cuts := s.schedule.cuts.tail } }

/-- The work of a request dispatched now is complete when the host transmitter next chooses. -/
def State.prompt (s : State) : Bool := s.schedule.prompts.headD false

def State.promptTaken (s : State) : State :=
  { s with schedule := { s.schedule with prompts := s.schedule.prompts.tail } }

/-! ### Lines of names -/

/-- The code of a line mode (R97, R180). -/
def LineMode.code : LineMode → Nat
  | .idle => 0
  | .sort => 1
  | .test => 2
  | .jog => 3
  | .purge => 4

/-- An element counts a charge only while the line mode is in its mode set; IDLE is in none (R31). -/
def LineMode.counts (m : LineMode) (modeSet : BitVec 8) : Bool :=
  m != .idle && modeSet.getLsbD m.code

end Sys2Proof.Machine
end

