-- ==== Sys2Proof/Machine/Flags.lean ====
section
/-! DEFINITION. The alert latch, the conditions and the notice pending set (R190 to R194). Blocks hand on what
they raise as a list of `AlertEvent`s, taken in order. -/

namespace Sys2Proof.Machine

/-- The 19 alert kinds (R190). -/
inductive AlertKind where
  | elementAdvised
  | elementDue
  | elementLimit
  | slip
  | sensorFail
  | holdGranted
  | holdRefused
  | holdLapsed
  | intakeOverrun
  | lineFrameError
  | unroutedItem
  | planUnplaced
  | planFull
  | workMissed
  | checkpointDone
  | checkpointFail
  | restoreIncomplete
  | clockUnset
  | captureTaken
  deriving DecidableEq, Repr

/-- The number of an alert kind (R190). -/
def AlertKind.code : AlertKind → Nat
  | .elementAdvised => 0
  | .elementDue => 1
  | .elementLimit => 2
  | .slip => 3
  | .sensorFail => 4
  | .holdGranted => 5
  | .holdRefused => 6
  | .holdLapsed => 7
  | .intakeOverrun => 8
  | .lineFrameError => 9
  | .unroutedItem => 10
  | .planUnplaced => 11
  | .planFull => 12
  | .workMissed => 13
  | .checkpointDone => 14
  | .checkpointFail => 15
  | .restoreIncomplete => 16
  | .clockUnset => 17
  | .captureTaken => 18

/-- What a block reports to the alert latch (R190, R191). -/
inductive AlertEvent where
  /-- An event alert latches. -/
  | raised (kind : AlertKind) (subject : Nat)
  /-- A condition is set with a subject; `starts` where it did not hold before. -/
  | conditionSet (kind : AlertKind) (subject : Nat) (starts : Bool)
  /-- A condition ends. -/
  | conditionEnded (kind : AlertKind)
  deriving DecidableEq, Repr

/-- The bit of a kind in the latch, the pending set and the mask. -/
def AlertKind.bit (k : AlertKind) : BitVec 19 := BitVec.twoPow 19 k.code

/-- The latched bit is set and the subject replaced (R190). -/
def AlertUnit.latch (a : AlertUnit) (k : AlertKind) (subject : Nat) : AlertUnit :=
  { a with latched := a.latched ||| k.bit, subjects := tset a.subjects k.code subject }

/-- A kind in the notice mask is marked pending; a mark already present absorbs it (R193). -/
def AlertUnit.mark (a : AlertUnit) (k : AlertKind) : AlertUnit :=
  { a with marks := a.marks ||| (k.bit &&& a.mask) }

/-- R190, R191, R193: an event latches and marks; a condition set latches and marks only where it starts; a
condition's end marks and leaves the bit and the subject. -/
def AlertUnit.take (a : AlertUnit) : AlertEvent → AlertUnit
  | .raised k subject => (a.latch k subject).mark k
  | .conditionSet k subject starts => if starts then (a.latch k subject).mark k else a.latch k subject
  | .conditionEnded k => a.mark k

def AlertUnit.takeAll (a : AlertUnit) (es : List AlertEvent) : AlertUnit := es.foldl AlertUnit.take a

/-- The alerts of a block are raised into the latch, in order. -/
def State.raise (s : State) (es : List AlertEvent) : State := { s with alerts := s.alerts.takeAll es }

/-! ### Conditions (R191) -/

/-- At least one transport is SLIPPING (R83). -/
def anySlipping (ts : Vector Transport 32) : Bool := (tlist ts).any fun t => t.slip == .slipping

/-- At least one transport's sensor is FAILED (R83). -/
def anyFailed (ts : Vector Transport 32) : Bool := (tlist ts).any fun t => t.sensor == .failed

/-- Some entry of the queue is unplaced (R153). -/
def PlanUnit.anyUnplaced (p : PlanUnit) : Bool := p.queue.any PlanEntry.unplaced

/-- The bits of the conditions that hold (R83, R131, R153). -/
def State.conditionBits (s : State) : BitVec 19 :=
  (if anySlipping s.transports then AlertKind.slip.bit else 0) |||
  (if anyFailed s.transports then AlertKind.sensorFail.bit else 0) |||
  (if s.plan.anyUnplaced then AlertKind.planUnplaced.bit else 0) |||
  (if s.clock.isNone then AlertKind.clockUnset.bit else 0)

/-- The kinds whose number is a bit of the set, lowest first. -/
def kindsIn (set : BitVec 19) : List Nat := (List.range 19).filter set.getLsbD

/-- The kind a notice takes: the lowest marked (R194). -/
def AlertUnit.firstMark (a : AlertUnit) : Option Nat := (List.range 19).find? a.marks.getLsbD

end Sys2Proof.Machine
end

