-- ==== Sys2Proof/Machine/Operands.lean ====
section
/-! DEFINITION. Operands of the host requests: the codes of R196, the layout of each payload (R179, R180: the
fields in the order of the request's own rule, each at its width, a variable list preceded by its count), reading
a payload into a command, the value checks R2 and R188 name, and the bytes of reply fields (R180). -/

namespace Sys2Proof.Machine

/-! ### Request codes and payloads -/

/-- The command number of a host request, bits 0 to 5 of its code (R196); none for an event. -/
def requestCommand : Instr → Option Nat
  | .status => some 0x01
  | .setClock _ => some 0x02
  | .start => some 0x03
  | .stop => some 0x04
  | .restart => some 0x05
  | .wipe => some 0x06
  | .setOptions _ => some 0x07
  | .readOptions => some 0x08
  | .clearCounts => some 0x09
  | .assignElement _ _ _ => some 0x10
  | .replaceElement _ => some 0x11
  | .retireElement _ => some 0x12
  | .setThresholds _ _ _ _ => some 0x13
  | .setWeights _ _ => some 0x14
  | .readElement _ => some 0x15
  | .listElements _ _ _ => some 0x16
  | .waiveHold _ _ => some 0x17
  | .setWatch _ => some 0x18
  | .readWatch => some 0x19
  | .armCapture _ _ => some 0x1A
  | .readCapture => some 0x1B
  | .setMask _ _ => some 0x20
  | .setRoute _ _ _ _ _ => some 0x21
  | .clearRoute _ => some 0x22
  | .setCommonPath _ => some 0x23
  | .readRoute _ => some 0x24
  | .readRouteCounts _ => some 0x25
  | .readTransport _ => some 0x28
  | .readIntervalCounts _ _ => some 0x29
  | .readHolds => some 0x2A
  | .abortHold _ => some 0x2B
  | .releaseHold _ => some 0x2C
  | .addWindow _ _ _ => some 0x30
  | .removeWindow _ => some 0x31
  | .pin _ _ => some 0x32
  | .unpin _ => some 0x33
  | .replan => some 0x34
  | .readPlan _ => some 0x35
  | .readWindows _ => some 0x36
  | .save => some 0x38
  | .readSaveStatus => some 0x39
  | .fetchAlerts _ => some 0x3C
  | .setNoticeMask _ => some 0x3D
  | .powerOn | .resetPin _ | .powerLoss _ _ _ | .startupEnd | .lineRecordArrival _
  | .lineRecordAbandoned | .takeRecord | .lineTxSent | .holdTimerExpiry _ | .minuteTick | .deferralEnd
  | .windowExpiry | .intervalBoundary | .checkpointRecordWritten _ | .hostFrameComplete _
  | .hostFrameAbandoned | .hostReplySent | .busyReplySent | .noticeSent | .lineByteReceived _
  | .hostByteReceived _ => none

def labelBytes (l : LabelField) : List Byte := u8 l.count ++ l.chars

def weightBytes (w : ClassWeights) : List Byte := u8 w.class0 ++ u8 w.class1 ++ u8 w.class2 ++ u8 w.class3

def pathBytes (path : List Nat) : List Byte := u8 path.length ++ path.map (BitVec.ofNat 8)

/-- The payload of a host request (R179, R180); empty for an event. -/
def requestPayload : Instr → List Byte
  | .setClock value => u32 value
  | .setOptions o =>
      u8 o.intervalLength ++ u16 o.horizon ++ u8 o.companionPercent ++ u16 o.slipLimit ++
      u8 o.slipSetCount ++ u8 o.slipClearCount ++ u8 o.slipFactor ++ u16 o.minimumDrive ++
      u16 o.answerTimeout ++ u8 o.deferral ++ u8 o.autoSave
  | .assignElement index f accumulator =>
      u8 index ++ u8 f.kind ++ u8 f.transport ++ labelBytes f.label ++ weightBytes f.weights ++
      u8 f.runWeight ++ u16 f.jamWeight ++ [f.modeSet] ++ u32 f.advisory ++ u32 f.due ++ u32 f.limit ++
      u16 f.quota ++ u8 f.group ++ u8 f.cost ++ u8 f.policy ++ u32 accumulator
  | .setThresholds index advisory due limit => u8 index ++ u32 advisory ++ u32 due ++ u32 limit
  | .setWeights index f =>
      u8 index ++ weightBytes f.weights ++ u8 f.runWeight ++ u16 f.jamWeight ++ [f.modeSet] ++
      u8 f.group ++ u8 f.cost ++ u8 f.policy ++ labelBytes f.label
  | .listElements first stateFilter transportFilter => u8 first ++ [stateFilter] ++ u8 transportFilter
  | .waiveHold index setting => u8 index ++ u8 setting
  | .armCapture level scope => u8 level ++ u8 scope
  | .setMask index value => u8 index ++ u16 value.toNat
  | .setRoute index enabled pattern maskIndex path =>
      u8 index ++ u8 enabled ++ u16 pattern.toNat ++ u8 maskIndex ++ pathBytes path
  | .setCommonPath path => pathBytes path
  | .readIntervalCounts first number => u8 first ++ u8 number
  | .addWindow startAt length capacity => u32 startAt ++ u16 length ++ u8 capacity
  | .pin element slot => u8 element ++ u8 slot
  | .fetchAlerts mask => u32 mask.toNat
  | .setNoticeMask mask => u32 mask.toNat
  | .replaceElement n | .retireElement n | .readElement n | .setWatch n | .clearRoute n | .readRoute n
  | .readRouteCounts n | .readTransport n | .abortHold n | .releaseHold n | .removeWindow n | .unpin n
  | .readPlan n | .readWindows n => u8 n
  | .status | .start | .stop | .restart | .wipe | .readOptions | .clearCounts | .readWatch | .readCapture
  | .readHolds | .replan | .save | .readSaveStatus => []
  | .powerOn | .resetPin _ | .powerLoss _ _ _ | .startupEnd | .lineRecordArrival _
  | .lineRecordAbandoned | .takeRecord | .lineTxSent | .holdTimerExpiry _ | .minuteTick | .deferralEnd
  | .windowExpiry | .intervalBoundary | .checkpointRecordWritten _ | .hostFrameComplete _
  | .hostFrameAbandoned | .hostReplySent | .busyReplySent | .noticeSent | .lineByteReceived _
  | .hostByteReceived _ => []

/-! ### Reading a payload -/

/-- What the command and length tests of R182 make of a request. -/
inductive Decoded where
  | unknownCommand
  | badLength
  | request (i : Instr)
  deriving DecidableEq, Repr

/-- A payload whose fields give a fixed length. -/
def whenLength (n : Nat) (p : List Byte) (i : Instr) : Decoded :=
  if p.length = n then .request i else .badLength

def labelAt (p : List Byte) (k : Nat) : LabelField := ⟨byteAt p k, (p.drop (k + 1)).take 8⟩

def weightsAt (p : List Byte) (k : Nat) : ClassWeights :=
  ⟨byteAt p k, byteAt p (k + 1), byteAt p (k + 2), byteAt p (k + 3)⟩

def listFrom (p : List Byte) (k : Nat) : List Nat := (p.drop k).map BitVec.toNat

def settingFieldsOf (p : List Byte) : SettingFields where
  kind := byteAt p 1
  transport := byteAt p 2
  label := labelAt p 3
  weights := weightsAt p 12
  runWeight := byteAt p 16
  jamWeight := u16At p 17
  modeSet := p.getD 19 0
  advisory := u32At p 20
  due := u32At p 24
  limit := u32At p 28
  quota := u16At p 32
  group := byteAt p 34
  cost := byteAt p 35
  policy := byteAt p 36

def weightFieldsOf (p : List Byte) : WeightFields where
  weights := weightsAt p 1
  runWeight := byteAt p 5
  jamWeight := u16At p 6
  modeSet := p.getD 8 0
  group := byteAt p 9
  cost := byteAt p 10
  policy := byteAt p 11
  label := labelAt p 12

def optionFieldsOf (p : List Byte) : OptionFields where
  intervalLength := byteAt p 0
  horizon := u16At p 1
  companionPercent := byteAt p 3
  slipLimit := u16At p 4
  slipSetCount := byteAt p 6
  slipClearCount := byteAt p 7
  slipFactor := byteAt p 8
  minimumDrive := u16At p 9
  answerTimeout := u16At p 11
  deferral := byteAt p 13
  autoSave := byteAt p 14

/-- The request that a command number and a payload spell (R182, R196). For a payload with a list the length is
reckoned from the count as received. -/
def decodeRequest (command : Nat) (p : List Byte) : Decoded :=
  match command with
  | 0x01 => whenLength 0 p .status
  | 0x02 => whenLength 4 p (.setClock (u32At p 0))
  | 0x03 => whenLength 0 p .start
  | 0x04 => whenLength 0 p .stop
  | 0x05 => whenLength 0 p .restart
  | 0x06 => whenLength 0 p .wipe
  | 0x07 => whenLength 15 p (.setOptions (optionFieldsOf p))
  | 0x08 => whenLength 0 p .readOptions
  | 0x09 => whenLength 0 p .clearCounts
  | 0x10 => whenLength 41 p (.assignElement (byteAt p 0) (settingFieldsOf p) (u32At p 37))
  | 0x11 => whenLength 1 p (.replaceElement (byteAt p 0))
  | 0x12 => whenLength 1 p (.retireElement (byteAt p 0))
  | 0x13 => whenLength 13 p (.setThresholds (byteAt p 0) (u32At p 1) (u32At p 5) (u32At p 9))
  | 0x14 => whenLength 21 p (.setWeights (byteAt p 0) (weightFieldsOf p))
  | 0x15 => whenLength 1 p (.readElement (byteAt p 0))
  | 0x16 => whenLength 3 p (.listElements (byteAt p 0) (p.getD 1 0) (byteAt p 2))
  | 0x17 => whenLength 2 p (.waiveHold (byteAt p 0) (byteAt p 1))
  | 0x18 => whenLength 1 p (.setWatch (byteAt p 0))
  | 0x19 => whenLength 0 p .readWatch
  | 0x1A => whenLength 2 p (.armCapture (byteAt p 0) (byteAt p 1))
  | 0x1B => whenLength 0 p .readCapture
  | 0x20 => whenLength 3 p (.setMask (byteAt p 0) (BitVec.ofNat 16 (u16At p 1)))
  | 0x21 => whenLength (6 + byteAt p 5) p
      (.setRoute (byteAt p 0) (byteAt p 1) (BitVec.ofNat 16 (u16At p 2)) (byteAt p 4) (listFrom p 6))
  | 0x22 => whenLength 1 p (.clearRoute (byteAt p 0))
  | 0x23 => whenLength (1 + byteAt p 0) p (.setCommonPath (listFrom p 1))
  | 0x24 => whenLength 1 p (.readRoute (byteAt p 0))
  | 0x25 => whenLength 1 p (.readRouteCounts (byteAt p 0))
  | 0x28 => whenLength 1 p (.readTransport (byteAt p 0))
  | 0x29 => whenLength 2 p (.readIntervalCounts (byteAt p 0) (byteAt p 1))
  | 0x2A => whenLength 0 p .readHolds
  | 0x2B => whenLength 1 p (.abortHold (byteAt p 0))
  | 0x2C => whenLength 1 p (.releaseHold (byteAt p 0))
  | 0x30 => whenLength 7 p (.addWindow (u32At p 0) (u16At p 4) (byteAt p 6))
  | 0x31 => whenLength 1 p (.removeWindow (byteAt p 0))
  | 0x32 => whenLength 2 p (.pin (byteAt p 0) (byteAt p 1))
  | 0x33 => whenLength 1 p (.unpin (byteAt p 0))
  | 0x34 => whenLength 0 p .replan
  | 0x35 => whenLength 1 p (.readPlan (byteAt p 0))
  | 0x36 => whenLength 1 p (.readWindows (byteAt p 0))
  | 0x38 => whenLength 0 p .save
  | 0x39 => whenLength 0 p .readSaveStatus
  | 0x3C => whenLength 4 p (.fetchAlerts (BitVec.ofNat 32 (u32At p 0)))
  | 0x3D => whenLength 4 p (.setNoticeMask (BitVec.ofNat 32 (u32At p 0)))
  | _ => .unknownCommand

/-! ### Value checks -/

/-- R2, R180; a set with bits 5 to 7 names no modes (notes/assumptions/15.md). -/
def modeSetOk (m : BitVec 8) : Bool := m != 0 && m &&& 0xE1 == 0

/-- R2. -/
def labelOk (l : List Byte) : Bool := l.length ≤ 8 && l.all fun c => 32 ≤ c.toNat && c.toNat ≤ 126

/-- R2; the character bytes beyond the count are not read (notes/assumptions/15.md). -/
def labelOf? (l : LabelField) : Option (List Byte) :=
  if l.count ≤ 8 && labelOk (l.chars.take l.count) then some (l.chars.take l.count) else none

/-- R2: the group is none (0xFF) or 0 to 63. -/
def groupOf? (g : Nat) : Option (Option Nat) :=
  if g = 255 then some none else if g ≤ 63 then some (some g) else none

def kindOf? (k : Nat) : Option ElementKind :=
  if k = 0 then some .roller else if k = 1 then some .belt else none

def policyOf? (p : Nat) : Option HoldPolicy :=
  if p = 0 then some .none else if p = 1 then some .hold else none

/-- A field of two values (R180). -/
def boolOf? (n : Nat) : Option Bool :=
  if n = 0 then some false else if n = 1 then some true else none

/-- R2: 1 ≤ advisory < due < limit ≤ 4,000,000,000. -/
def thresholdsOk (advisory due limit : Nat) : Bool :=
  1 ≤ advisory && advisory < due && due < limit && limit ≤ 4000000000

/-- The checks of R2 on the settings of a record; kind and hold policy have no other value here. -/
def Settings.ok (v : Settings) : Bool :=
  v.transport ≤ 31 && labelOk v.label && modeSetOk v.modeSet && thresholdsOk v.advisory v.due v.limit &&
  (match v.group with | none => true | some g => g ≤ 63) && 1 ≤ v.cost && v.cost ≤ 8

/-- The settings ASSIGN ELEMENT carries, if they pass R2. -/
def settingsOf? (f : SettingFields) : Option Settings :=
  match kindOf? f.kind, labelOf? f.label, groupOf? f.group, policyOf? f.policy with
  | some kind, some label, some group, some policy =>
      let v : Settings :=
        { kind, transport := f.transport, label, weights := f.weights, runWeight := f.runWeight,
          jamWeight := f.jamWeight, modeSet := f.modeSet, advisory := f.advisory, due := f.due,
          limit := f.limit, quota := f.quota, group, cost := f.cost, policy }
      if v.ok then some v else none
  | _, _, _, _ => none

/-- An element's settings with the eight that SET WEIGHTS carries in place, if those pass R2 (R21). -/
def weightsOf? (f : WeightFields) (old : Settings) : Option Settings :=
  match labelOf? f.label, groupOf? f.group, policyOf? f.policy with
  | some label, some group, some policy =>
      if modeSetOk f.modeSet && 1 ≤ f.cost && f.cost ≤ 8 then
        some { old with
          weights := f.weights, runWeight := f.runWeight, jamWeight := f.jamWeight,
          modeSet := f.modeSet, group := group, cost := f.cost, policy := policy, label := label }
      else none
  | _, _, _ => none

/-- Every option lies within its range (R188). -/
def Options.ok (o : Options) : Bool :=
  [5, 10, 15, 30, 60].contains o.intervalLength && 60 ≤ o.horizon && o.horizon ≤ 43200 &&
  50 ≤ o.companionPercent && o.companionPercent ≤ 100 && 5 ≤ o.slipLimit && o.slipLimit ≤ 500 &&
  1 ≤ o.slipSetCount && o.slipSetCount ≤ 15 && 1 ≤ o.slipClearCount && o.slipClearCount ≤ 63 &&
  1 ≤ o.slipFactor && o.slipFactor ≤ 4 && 10 ≤ o.minimumDrive && o.minimumDrive ≤ 2000 &&
  250 ≤ o.answerTimeout && o.answerTimeout ≤ 10000 && 1 ≤ o.deferral && o.deferral ≤ 60

/-- The options SET OPTIONS carries, if every value is in range (R188). -/
def optionsOf? (f : OptionFields) : Option Options :=
  match boolOf? f.autoSave with
  | some autoSave =>
      let o : Options :=
        { intervalLength := f.intervalLength, horizon := f.horizon, companionPercent := f.companionPercent,
          slipLimit := f.slipLimit, slipSetCount := f.slipSetCount, slipClearCount := f.slipClearCount,
          slipFactor := f.slipFactor, minimumDrive := f.minimumDrive, answerTimeout := f.answerTimeout,
          deferral := f.deferral, autoSave }
      if o.ok then some o else none
  | none => none

/-! ### Bytes of reply fields (R180) -/

def indexOrNone : Option Nat → List Byte
  | some n => u8 n
  | none => u8 255

def minuteBytes : Option Nat → List Byte
  | some m => u32 m
  | none => u32 4294967295

def Projection.bytes : Projection → List Byte
  | .minute m => u8 0 ++ u32 m
  | .now => u8 1 ++ u32 0
  | .never => u8 2 ++ u32 0
  | .unknown => u8 3 ++ u32 0

def AssignedState.code : AssignedState → Nat
  | .breakIn => 2
  | .service => 3
  | .advised => 4
  | .due => 5
  | .limit => 6

/-- The code of an element state (R180). -/
def Element.stateCode (e : Element) : Nat :=
  match e.position with
  | .vacant => 0
  | .suspect => 1
  | .assigned f => f.state.code

def ElementKind.code : ElementKind → Nat
  | .roller => 0
  | .belt => 1

def HoldPolicy.code : HoldPolicy → Nat
  | .none => 0
  | .hold => 1

def Level.code : Level → Nat
  | .advised => 0
  | .due => 1
  | .limit => 2

/-- A label: its count, then eight character bytes, those beyond the count 0 (R180). -/
def labelReply (l : List Byte) : List Byte := u8 l.length ++ l.take 8 ++ List.replicate (8 - l.length) 0

def Milestones.bytes (m : Milestones) : List Byte :=
  u8 ((if m.advisory then 1 else 0) + (if m.due then 2 else 0) + (if m.limit then 4 else 0))

def EngineState.code : EngineState → Nat
  | .starting => 0
  | .stopped => 1
  | .counting => 2

def SlipState.code : SlipState → Nat
  | .clear => 0
  | .slipping => 1

def SensorState.code : SensorState → Nat
  | .good => 0
  | .failed => 1

def HoldState.bytes : HoldState → List Byte
  | .clear => u8 0
  | .waiting => u8 1
  | .asking => u8 2
  | .held => u8 3
  | .deferred countdown => u8 4 ++ u8 countdown

def HoldState.code : HoldState → Nat
  | .clear => 0
  | .waiting => 1
  | .asking => 2
  | .held => 3
  | .deferred _ => 4

def SlotState.code : SlotState → Nat
  | .free => 0
  | .pending => 1
  | .sent => 2
  | .aborting => 3

def SlotOutcome.code : SlotOutcome → Nat
  | .none => 0
  | .granted => 1
  | .refused => 2
  | .lapsed => 3
  | .aborted => 4
  | .withdrawn => 5

def Reason.code : Reason → Nat
  | .horizon => 0
  | .advised => 1
  | .due => 2
  | .limit => 3
  | .companion => 4

def StartOutcome.code : StartOutcome → Nat
  | .fresh => 0
  | .restored => 1
  | .defaults => 2
  | .incomplete => 3

/-- The status values of R196. -/
def Status.code : Status → Nat
  | .ok => 0x00
  | .started => 0x01
  | .inProgress => 0x02
  | .badCheck => 0x10
  | .badLength => 0x11
  | .unknownCommand => 0x12
  | .badValue => 0x13
  | .wrongState => 0x14
  | .elementState => 0x15
  | .noRoom => 0x16
  | .notFound => 0x17
  | .clockUnset => 0x18
  | .busy => 0x19
  | .starting => 0x1A

end Sys2Proof.Machine
end

