-- ==== Sys2Proof/Machine/Holds.lean ====
section
/-! DEFINITION. The hold unit and the transmit list it fills (R106 to R108, R110 to R122, R127). Each operation
acts on the hold unit alone; the wish for a hold is read from the element table by its caller (R113), and
`enabled` says that the engine state lets the arbiter run (R115). -/

namespace Sys2Proof.Machine

def HoldUnit.state (h : HoldUnit) (t : Nat) : HoldState := tget h.states t .clear

def HoldUnit.setState (h : HoldUnit) (t : Nat) (st : HoldState) : HoldUnit :=
  { h with states := tset h.states t st }

def HoldUnit.slot (h : HoldUnit) (k : Nat) : HoldSlot := tget h.slots k .fresh

def HoldUnit.setSlot (h : HoldUnit) (k : Nat) (v : HoldSlot) : HoldUnit :=
  { h with slots := tset h.slots k v }

/-! ### Transmit list -/

/-- An entry joins the tail; an idle transmitter begins its head at once (R106, R107). -/
def HoldUnit.join (h : HoldUnit) (e : TxEntry) : HoldUnit :=
  { h with transmit := h.transmit ++ [e], sending := true }

/-- The list's answer to a removal (R108). -/
inductive Removal where
  | removed
  | tooLate
  | noEntry
  deriving DecidableEq, Repr

def HoldUnit.removal (h : HoldUnit) (e : TxEntry) : Removal :=
  if h.sending && h.transmit.head? == some e then .tooLate
  else if h.transmit.contains e then .removed
  else .noEntry

/-- The unit after a removal was answered 'removed' (R108). -/
def HoldUnit.without (h : HoldUnit) (e : TxEntry) : HoldUnit := { h with transmit := h.transmit.erase e }

/-- A release joins unless one for the transport is already there (R121, R122). -/
def HoldUnit.joinRelease (h : HoldUnit) (t : Nat) : HoldUnit :=
  if h.transmit.contains (.release t) then h else h.join (.release t)

/-! ### Slots -/

/-- A slot's request ends: FREE with an outcome, its transport kept for reading (R111). -/
def HoldUnit.freeSlot (h : HoldUnit) (k : Nat) (outcome : SlotOutcome) : HoldUnit :=
  h.setSlot k { h.slot k with state := .free, outcome, timer := none }

/-- The lowest-numbered FREE slot (R115). -/
def HoldUnit.lowestFree? (h : HoldUnit) : Option Nat :=
  (List.range 4).find? fun k => (h.slot k).state == .free

/-- The slot in one of the given states that names a transport (R112: there is at most one busy one). -/
def HoldUnit.slotNaming? (h : HoldUnit) (t : Nat) (among : List SlotState) : Option Nat :=
  (List.range 4).find? fun k => (h.slot k).transport == some t && among.contains (h.slot k).state

/-- The head of the waiting list takes the lowest-numbered FREE slot and files its request (R115). -/
def HoldUnit.arbiterStep (h : HoldUnit) : HoldUnit :=
  match h.waiting, h.lowestFree? with
  | t :: rest, some k =>
      let filed := { h.slot k with state := .pending, transport := some t, timer := none }
      ((({ h with waiting := rest }).setSlot k filed).setState t .asking).join (.request k t)
  | _, _ => h

/-- The arbiter repeats while a transport waits and a slot is FREE; there are four slots (R115). -/
def HoldUnit.arbiter (enabled : Bool) (h : HoldUnit) : HoldUnit :=
  if enabled then h.arbiterStep.arbiterStep.arbiterStep.arbiterStep else h

/-! ### The wish appears and disappears -/

/-- The third step of R114. -/
def HoldUnit.joinWaiting (enabled : Bool) (t : Nat) (h : HoldUnit) : HoldUnit :=
  (({ h with waiting := h.waiting ++ [t] }).setState t .waiting).arbiter enabled

/-- R114: reclaim an ABORTING slot, or withdraw the release, or wait for a slot. -/
def HoldUnit.wishAppears (enabled : Bool) (t : Nat) (h : HoldUnit) : HoldUnit :=
  match h.slotNaming? t [.aborting] with
  | some k =>
      let back := if (h.slot k).timer.isSome then SlotState.sent else SlotState.pending
      (h.setSlot k { h.slot k with state := back }).setState t .asking
  | none =>
      match h.removal (.release t) with
      | .removed => (h.without (.release t)).setState t .held
      | .tooLate => h.joinWaiting enabled t
      | .noEntry => h.joinWaiting enabled t

/-- The withdrawal of a PENDING slot's request: the slot frees with the given outcome, or, where the removal is
too late, waits for its answer in ABORTING (R121, R123). -/
def HoldUnit.withdraw (h : HoldUnit) (k t : Nat) (outcome : SlotOutcome) : HoldUnit :=
  match h.removal (.request k t) with
  | .removed => (h.without (.request k t)).freeSlot k outcome
  | .tooLate => h.setSlot k { h.slot k with state := .aborting, timer := none }
  | .noEntry => h.setSlot k { h.slot k with state := .aborting, timer := none }

/-- A PENDING or SENT slot gives up its request and its transport goes to CLEAR (R121, R123). -/
def HoldUnit.giveUp (enabled : Bool) (h : HoldUnit) (k t : Nat) (outcome : SlotOutcome) : HoldUnit :=
  match (h.slot k).state with
  | .pending => ((h.withdraw k t outcome).setState t .clear).arbiter enabled
  | .sent => (h.setSlot k { h.slot k with state := .aborting }).setState t .clear
  | .free => h.setState t .clear
  | .aborting => h.setState t .clear

/-- R121. -/
def HoldUnit.wishDisappears (enabled : Bool) (t : Nat) (h : HoldUnit) : HoldUnit :=
  match h.state t with
  | .clear => h
  | .waiting => ({ h with waiting := h.waiting.erase t }).setState t .clear
  | .asking =>
      match h.slotNaming? t [.pending, .sent] with
      | some k => h.giveUp enabled k t .withdrawn
      | none => h.setState t .clear
  | .held => (h.setState t .clear).joinRelease t
  | .deferred _ => h.setState t .clear

/-- A re-evaluation compares the wish with the hold state (R113). -/
def HoldUnit.reevaluate (enabled wish : Bool) (t : Nat) (h : HoldUnit) : HoldUnit :=
  if wish then
    match h.state t with
    | .clear => h.wishAppears enabled t
    | .waiting => h
    | .asking => h
    | .held => h
    | .deferred _ => h
  else h.wishDisappears enabled t

/-! ### Sent events, answers, timers, ticks -/

/-- The sent event of a request starts its slot's timer (R116). -/
def HoldUnit.requestSent (timeout k : Nat) (h : HoldUnit) : HoldUnit :=
  match (h.slot k).state with
  | .pending => h.setSlot k { h.slot k with state := .sent, timer := some timeout }
  | .aborting =>
      if (h.slot k).timer.isNone then h.setSlot k { h.slot k with timer := some timeout } else h
  | .free => h
  | .sent => h

/-- The last byte of the head entry has left: the entry leaves the list, the transmitter begins the new head,
and the sent event is delivered (R107, R116). With nothing being sent there is no such event. -/
def HoldUnit.headSent (timeout : Nat) (h : HoldUnit) : HoldUnit :=
  match h.sending, h.transmit with
  | true, .request k _ :: rest =>
      ({ h with transmit := rest, sending := !rest.isEmpty }).requestSent timeout k
  | true, .release _ :: rest => { h with transmit := rest, sending := !rest.isEmpty }
  | _, _ => h

/-- R117, R118, R122: a matching answer ends the slot's request; none where the answer is stray. -/
def HoldUnit.answer (enabled : Bool) (deferral tag t : Nat) (granted : Bool) (h : HoldUnit) :
    Option (HoldUnit × List AlertEvent) :=
  if (h.slot tag).timer.isSome && (h.slot tag).transport == some t then
    match (h.slot tag).state, granted with
    | .sent, true =>
        some (((h.freeSlot tag .granted).setState t .held).arbiter enabled, [.raised .holdGranted t])
    | .sent, false =>
        some (((h.freeSlot tag .refused).setState t (.deferred deferral)).arbiter enabled,
          [.raised .holdRefused t])
    | .aborting, true => some (((h.freeSlot tag .aborted).joinRelease t).arbiter enabled, [])
    | .aborting, false => some ((h.freeSlot tag .aborted).arbiter enabled, [])
    | .free, _ => none
    | .pending, _ => none
  else none

/-- R119, R122: the running timer of a slot runs out; there is no such event for an idle timer. -/
def HoldUnit.expire (enabled : Bool) (deferral k : Nat) (h : HoldUnit) : HoldUnit × List AlertEvent :=
  match (h.slot k).timer, (h.slot k).state, (h.slot k).transport with
  | some _, .sent, some t =>
      (((h.freeSlot k .lapsed).setState t (.deferred deferral)).arbiter enabled, [.raised .holdLapsed t])
  | some _, .aborting, _ => ((h.freeSlot k .aborted).arbiter enabled, [])
  | _, _, _ => (h, [])

/-- A tick now taken would end a countdown (R120). -/
def HoldUnit.tickEnds (h : HoldUnit) : Bool :=
  (tlist h.states).any fun st => match st with | .deferred c => c ≤ 1 | _ => false

/-- Each countdown falls by one (R120). -/
def HoldUnit.countDown (h : HoldUnit) : HoldUnit :=
  { h with states := tmap (fun st => match st with | .deferred c => .deferred (c - 1) | st => st) h.states }

/-- A transport whose countdown reached 0 leaves DEFERRED by its wish (R120). -/
def HoldUnit.endDeferral (wish : Nat → Bool) (h : HoldUnit) (t : Nat) : HoldUnit :=
  match h.state t with
  | .deferred 0 =>
      if wish t then ({ h with waiting := h.waiting ++ [t] }).setState t .waiting else h.setState t .clear
  | _ => h

/-- The hold unit takes a minute tick: countdowns fall, those that end are handled in index order, and then the
arbiter runs (R120). -/
def HoldUnit.tick (enabled : Bool) (wish : Nat → Bool) (h : HoldUnit) : HoldUnit :=
  ((List.range 32).foldl (HoldUnit.endDeferral wish) h.countDown).arbiter enabled

/-- The post-restore pass (R127): each transport whose wish is present waits, in index order. -/
def HoldUnit.postRestore (wish : Nat → Bool) (h : HoldUnit) : HoldUnit :=
  ((List.range 32).filter wish).foldl
    (fun h t => ({ h with waiting := h.waiting ++ [t] }).setState t .waiting) h

/-! ### The hold unit in the part -/

/-- The arbiter runs in STOPPED and in COUNTING (R115). -/
def State.arbiterOn (s : State) : Bool := s.engine != .starting

/-- A re-evaluation request of the element table for one transport (R11, R113). -/
def State.reevaluate (s : State) (t : Nat) : State :=
  { s with hold := s.hold.reevaluate s.arbiterOn (s.wish t) t }

/-- Hold waived is set on every element of the transport that is in LIMIT, whatever its policy (R123, R124). -/
def waiveElement (t : Nat) (e : Element) : Element :=
  match e.position with
  | .assigned f =>
      if f.state == .limit && f.settings.transport == t then
        { e with position := .assigned { f with waived := true } }
      else e
  | .vacant => e
  | .suspect => e

def State.waiveTransport (s : State) (t : Nat) : State :=
  { s with elements := tmap (waiveElement t) s.elements }

/-- How many elements a waiver of the transport covers (R123, R124; notes/assumptions/16.md). -/
def State.limitCount (s : State) (t : Nat) : Nat :=
  (tlist s.elements).countP fun e =>
    match e.position with
    | .assigned f => f.state == .limit && f.settings.transport == t
    | .vacant => false
    | .suspect => false

end Sys2Proof.Machine
end

