-- ==== Sys2Proof/Machine/Plan.lean ====
section
/-! DEFINITION. The plan unit: windows, the plan queue and its order, the replan, the notices of the element
table, pins (R142 to R160). Each operation acts on the plan unit alone and hands on its alerts; `c` is the plant
minute it reads. -/

namespace Sys2Proof.Machine

/-! ### Order (R147) -/

def Projection.rank : Projection → Nat
  | .minute _ => 0
  | .now => 0
  | .never => 1
  | .unknown => 2

/-- The minute an entry sorts at, NOW taken as the clock's value. -/
def Projection.minuteAt (c : Nat) : Projection → Nat
  | .minute m => m
  | .now => c
  | .never => 0
  | .unknown => 0

/-- R147: rank, then minute, then element index. -/
def PlanEntry.before (c : Nat) (a b : PlanEntry) : Bool :=
  a.due.rank < b.due.rank ||
  (a.due.rank == b.due.rank &&
    (a.due.minuteAt c < b.due.minuteAt c ||
      (a.due.minuteAt c == b.due.minuteAt c && a.element < b.element)))

/-- An entry put at its place in a queue in order. -/
def insertEntry (c : Nat) (e : PlanEntry) : List PlanEntry → List PlanEntry
  | [] => [e]
  | x :: xs => if e.before c x then e :: x :: xs else x :: insertEntry c e xs

/-- The entries in the order of R147. -/
def orderEntries (c : Nat) (q : List PlanEntry) : List PlanEntry := q.foldr (insertEntry c) []

def PlanUnit.reorder (c : Nat) (p : PlanUnit) : PlanUnit := { p with queue := orderEntries c p.queue }

/-- The most entries a queue holds (R146). -/
abbrev queueLimit : Nat := 64

def PlanUnit.entry? (p : PlanUnit) (i : Nat) : Option PlanEntry := p.queue.find? fun e => e.element == i

/-- The entry of an element, changed. -/
def PlanUnit.update (p : PlanUnit) (i : Nat) (g : PlanEntry → PlanEntry) : PlanUnit :=
  { p with queue := p.queue.map fun e => if e.element == i then g e else e }

/-! ### Windows (R142) -/

def PlanUnit.window (p : PlanUnit) (k : Nat) : Option Window := tget p.windows k none

def Window.endMinute (w : Window) : Nat := w.start + w.length

def Window.remaining (w : Window) : Nat := w.capacity - w.used

/-- A slot's window takes the cost of an entry. -/
def Window.charge (cost : Nat) (pinned : Bool) (w : Window) : Window :=
  { w with used := w.used + cost, pinnedLoad := if pinned then w.pinnedLoad + cost else w.pinnedLoad }

/-- The cost of an entry is returned. -/
def Window.refund (cost : Nat) (pinned : Bool) (w : Window) : Window :=
  { w with used := w.used - cost, pinnedLoad := if pinned then w.pinnedLoad - cost else w.pinnedLoad }

def onWindow (g : Window → Window) (ws : Vector (Option Window) 8) (k : Nat) : Vector (Option Window) 8 :=
  tset ws k ((tget ws k none).map g)

/-- The windows with an entry's cost returned to the one it is assigned to. -/
def PlanEntry.refunded (e : PlanEntry) (ws : Vector (Option Window) 8) : Vector (Option Window) 8 :=
  match e.window with
  | some k => onWindow (Window.refund e.cost e.pinned) ws k
  | none => ws

/-- An entry loses its window and its pin. -/
def PlanEntry.offWindow (e : PlanEntry) : PlanEntry := { e with window := none, pinned := false }

/-- The lowest-numbered free slot (R143). -/
def PlanUnit.freeSlot? (p : PlanUnit) : Option Nat :=
  (List.range 8).find? fun k => (p.window k).isNone

/-- The number of entries assigned to a slot's window (R162). -/
def PlanUnit.assignedTo (p : PlanUnit) (k : Nat) : Nat := p.queue.countP fun e => e.window == some k

/-- R144, before its replan. -/
def PlanUnit.removeWindow (p : PlanUnit) (k : Nat) : PlanUnit where
  windows := tset p.windows k none
  queue := p.queue.map fun e => if e.window == some k then e.offWindow else e

/-! ### PLAN_UNPLACED outside the replan -/

/-- The condition ends where the last unplaced entry left or lost its mark (R153). -/
def settleEnd (before after : PlanUnit) : List AlertEvent :=
  if before.anyUnplaced && !after.anyUnplaced then [.conditionEnded .planUnplaced] else []

/-! ### Expiry (R145, R149) -/

def Window.ended (c : Nat) (w : Window) : Bool := w.endMinute ≤ c

def PlanUnit.inEnded (p : PlanUnit) (c : Nat) (e : PlanEntry) : Bool :=
  match e.window with
  | some k => match p.window k with | some w => w.ended c | none => false
  | none => false

/-- Some window's end is at or before `c`. -/
def PlanUnit.someEnded (p : PlanUnit) (c : Nat) : Bool :=
  (tlist p.windows).any fun w => match w with | some w => w.ended c | none => false

/-- Ended windows are freed and their entries lose window and pin. -/
def PlanUnit.dropEnded (c : Nat) (p : PlanUnit) : PlanUnit where
  windows := tmap (fun w => match w with | some w => if w.ended c then none else some w | none => none) p.windows
  queue := p.queue.map fun e => if p.inEnded c e then e.offWindow else e

/-- WORK_MISSED for each entry still assigned to an ended window, in queue order. -/
def PlanUnit.missed (c : Nat) (p : PlanUnit) : List AlertEvent :=
  (p.queue.filter (p.inEnded c)).map fun e => .raised .workMissed e.element

/-- Every window's used and pinned load set to 0 (R151). -/
def zeroLoads (ws : Vector (Option Window) 8) : Vector (Option Window) 8 :=
  tmap (fun w => w.map fun w => { w with used := 0, pinnedLoad := 0 }) ws

/-- The queue loses every entry, each cost returned (R142, R145, R148: the clock is unset). -/
def PlanUnit.emptied (p : PlanUnit) : PlanUnit × List AlertEvent :=
  (⟨zeroLoads p.windows, []⟩, settleEnd p ⟨zeroLoads p.windows, []⟩)

/-- What a minute tick does in the plan unit, with the minute it carries (R145). -/
def PlanUnit.tick (carried : Option Nat) (p : PlanUnit) : PlanUnit × List AlertEvent :=
  match carried with
  | some c => ((p.dropEnded c).reorder c, p.missed c)
  | none => p.emptied

/-! ### The replan -/

def AssignedState.reason? : AssignedState → Option Reason
  | .breakIn => none
  | .service => none
  | .advised => some .advised
  | .due => some .due
  | .limit => some .limit

def Projection.atOrBefore (top : Nat) : Projection → Bool
  | .minute m => m ≤ top
  | .now => false
  | .never => false
  | .unknown => false

/-- The reason an assigned element is a candidate for (R149). -/
def Fitting.candidateReason (f : Fitting) (top : Nat) (pinned : Bool) : Option Reason :=
  match f.state.reason? with
  | some r => some r
  | none => if f.projection.atOrBefore top || pinned then some .horizon else none

/-- The entry a candidate begins with: a pinned entry keeps its pin and window (R149, R150). -/
def candidate (top : Nat) (old : List PlanEntry) (x : Element × Nat) : Option PlanEntry :=
  match x.1.position with
  | .assigned f =>
      let pin := old.find? fun q => q.pinned && q.element == x.2
      (f.candidateReason top pin.isSome).map fun reason =>
        { element := x.2, generation := x.1.generation, due := f.projection, reason,
          window := pin.bind PlanEntry.window, pinned := pin.isSome, unplaced := false,
          cost := f.settings.cost }
  | .vacant => none
  | .suspect => none

/-- The candidates in order (R149, R150). -/
def candidates (c horizon : Nat) (elements : Vector Element 240) (old : List PlanEntry) : List PlanEntry :=
  orderEntries c ((tenum elements).filterMap (candidate (c + horizon) old))

/-- Of the candidates in order: the kept ones, and the cut ones (R150). -/
def keptOf (cs : List PlanEntry) : List PlanEntry :=
  cs.filter PlanEntry.pinned ++
    (cs.filter fun e => !e.pinned).take (queueLimit - (cs.filter PlanEntry.pinned).length)

def cutOf (cs : List PlanEntry) : List PlanEntry :=
  (cs.filter fun e => !e.pinned).drop (queueLimit - (cs.filter PlanEntry.pinned).length)

/-- Each pinned entry charges its window (R151). -/
def chargePins (q : List PlanEntry) (ws : Vector (Option Window) 8) : Vector (Option Window) 8 :=
  q.foldl (fun ws e =>
    match e.pinned, e.window with
    | true, some k => onWindow (Window.charge e.cost true) ws k
    | _, _ => ws) ws

/-- The three conditions of R151. -/
def Window.takes (c : Nat) (e : PlanEntry) (w : Window) : Bool :=
  c < w.endMinute &&
  (match e.due with
    | .minute m => w.start ≤ m
    | .now => true
    | .never => true
    | .unknown => false) &&
  e.cost ≤ w.remaining

/-- The earlier of two windows, by start and then slot; the second slot is the higher one. -/
def earlier (best : Option (Window × Nat)) (x : Option Window × Nat) : Option (Window × Nat) :=
  match best, x.1 with
  | some b, some w => if w.start < b.1.start then some (w, x.2) else some b
  | none, some w => some (w, x.2)
  | b, none => b

/-- The first window, in ascending start and then slot, that takes the entry (R151). -/
def chooseWindow (c : Nat) (e : PlanEntry) (ws : Vector (Option Window) 8) : Option Nat :=
  (((tenum ws).map fun x => (x.1.filter (Window.takes c e), x.2)).foldl earlier none).map Prod.snd

/-- One entry's placement (R151). -/
def placeEntry (c : Nat) (ws : Vector (Option Window) 8) (e : PlanEntry) :
    Vector (Option Window) 8 × PlanEntry :=
  if e.pinned || e.due == .unknown then (ws, e)
  else
    match chooseWindow c e ws with
    | some k => (onWindow (Window.charge e.cost false) ws k, { e with window := some k })
    | none => (ws, { e with unplaced := true })

/-- Placement in queue order (R151). -/
def placeAll (c : Nat) (ws : Vector (Option Window) 8) : List PlanEntry → PlanUnit
  | [] => ⟨ws, []⟩
  | e :: es =>
      let placed := placeEntry c ws e
      let rest := placeAll c placed.1 es
      { rest with queue := placed.2 :: rest.queue }

/-- R152's conditions on the element itself: its state and its wear against the companion percent. -/
def Fitting.companionWear (percent : Nat) (f : Fitting) : Bool :=
  (f.state == .breakIn || f.state == .service || f.state == .advised) &&
  percent * f.settings.due ≤ 100 * f.accumulator

/-- One element of the group, examined for one window (R152). -/
def addCompanion (c percent k : Nat) (p : PlanUnit) (x : Element × Nat) : PlanUnit :=
  match x.1.position, p.window k with
  | .assigned f, some w =>
      if (p.entry? x.2).isNone && f.companionWear percent && f.settings.cost ≤ w.remaining &&
          p.queue.length < queueLimit then
        { windows := onWindow (Window.charge f.settings.cost false) p.windows k,
          queue := insertEntry c
            { element := x.2, generation := x.1.generation, due := f.projection, reason := .companion,
              window := some k, pinned := false, unplaced := false, cost := f.settings.cost } p.queue }
      else p
  | _, _ => p

def Element.group? (e : Element) : Option Nat := e.fitting?.bind fun f => f.settings.group

/-- The companions one windowed entry pulls in, in index order (R152). -/
def companionsOf (c percent : Nat) (elements : Vector Element 240) (p : PlanUnit) (e : PlanEntry) : PlanUnit :=
  match e.window, (tget elements e.element .vacant).group? with
  | some k, some g =>
      ((tenum elements).filter fun x => x.1.group? == some g).foldl (addCompanion c percent k) p
  | _, _ => p

/-- What a replan leaves: the unit, its alerts, and the number of candidates cut (R160). -/
structure Replan where
  unit : PlanUnit
  alerts : List AlertEvent
  cut : Nat

/-- The unit that R149 to R152 build. -/
def rebuild (c horizon percent : Nat) (elements : Vector Element 240) (p : PlanUnit) : PlanUnit :=
  let q := orderEntries c (keptOf (candidates c horizon elements p.queue))
  let placed := placeAll c (chargePins q (zeroLoads p.windows)) q
  placed.queue.foldl (companionsOf c percent elements) placed

/-- R153. -/
def settleReplan (held : Bool) (p : PlanUnit) : List AlertEvent :=
  match p.queue.find? PlanEntry.unplaced with
  | some e => [.conditionSet .planUnplaced e.element (!held)]
  | none => if held then [.conditionEnded .planUnplaced] else []

/-- R150. -/
def planFullOf (cut : List PlanEntry) : List AlertEvent :=
  match cut.head? with
  | some e => [.raised .planFull e.element]
  | none => []

/-- The replan (R148). -/
def PlanUnit.replan (clock : Option Nat) (horizon percent : Nat) (elements : Vector Element 240)
    (p : PlanUnit) : Replan :=
  match clock with
  | some c =>
      let expired := p.dropEnded c
      let cut := cutOf (candidates c horizon elements expired.queue)
      let built := rebuild c horizon percent elements expired
      { unit := built, cut := cut.length,
        alerts := p.missed c ++ planFullOf cut ++ settleReplan p.anyUnplaced built }
  | none => { unit := p.emptied.1, alerts := p.emptied.2, cut := 0 }

/-! ### Notices (R154 to R157) -/

/-- An entry leaves the queue, its cost returned. -/
def PlanUnit.remove (p : PlanUnit) (e : PlanEntry) : PlanUnit where
  windows := e.refunded p.windows
  queue := p.queue.filter fun x => x.element != e.element

/-- The unpinned entry that stands latest (R155). -/
def PlanUnit.lastUnpinned? (c : Nat) (p : PlanUnit) : Option PlanEntry :=
  (orderEntries c p.queue).reverse.find? fun e => !e.pinned

def PlanUnit.insert (c : Nat) (p : PlanUnit) (e : PlanEntry) : PlanUnit :=
  { p with queue := insertEntry c e (orderEntries c p.queue) }

/-- A new entry joins; a full queue displaces its last unpinned entry or turns the new one away (R154, R155). -/
def PlanUnit.addNew (c : Nat) (e : PlanEntry) (p : PlanUnit) : PlanUnit × List AlertEvent :=
  if p.queue.length < queueLimit then (p.insert c e, [])
  else
    match p.lastUnpinned? c with
    | some last =>
        if e.before c last then
          ((p.remove last).insert c e, .raised .planFull last.element :: settleEnd p (p.remove last))
        else (p, [.raised .planFull e.element])
    | none => (p, [.raised .planFull e.element])

/-- What a milestone notice carries, with the element's cost (R10, R154). -/
structure MilestoneNotice where
  element : Nat
  generation : BitVec 16
  reason : Reason
  due : Projection
  cost : Nat

def MilestoneNotice.entry (n : MilestoneNotice) : PlanEntry where
  element := n.element
  generation := n.generation
  due := n.due
  reason := n.reason
  window := none
  pinned := false
  unplaced := false
  cost := n.cost

/-- R154. -/
def PlanUnit.milestoneNotice (clock : Option Nat) (n : MilestoneNotice) (p : PlanUnit) :
    PlanUnit × List AlertEvent :=
  match clock with
  | some c =>
      match p.entry? n.element with
      | some _ =>
          ((p.update n.element fun e =>
            { e with reason := n.reason, generation := n.generation, due := n.due }).reorder c, [])
      | none => p.addNew c n.entry
  | none => (p, [])

/-- R156: without an entry the notice changes nothing; while the clock is unset the queue is empty. -/
def PlanUnit.projectionNotice (clock : Option Nat) (i : Nat) (due : Projection) (p : PlanUnit) : PlanUnit :=
  match clock, p.entry? i with
  | some c, some _ => (p.update i fun e => { e with due := due }).reorder c
  | some _, none => p
  | none, _ => p

/-- R157: removal. -/
def PlanUnit.removalNotice (i : Nat) (p : PlanUnit) : PlanUnit × List AlertEvent :=
  match p.entry? i with
  | some e => (p.remove e, settleEnd p (p.remove e))
  | none => (p, [])

/-- A window's used with a new cost in place of an old one is within capacity (R157). -/
def PlanUnit.fitsWith (p : PlanUnit) (k old new : Nat) : Bool :=
  match p.window k with
  | some w => w.used - old + new ≤ w.capacity
  | none => false

/-- R157: cost. An entry that no longer fits takes the new cost as it leaves (notes/assumptions/17.md). -/
def PlanUnit.costNotice (i cost : Nat) (p : PlanUnit) : PlanUnit × List AlertEvent :=
  match p.entry? i with
  | some e =>
      match e.window with
      | some k =>
          if p.fitsWith k e.cost cost then
            ({ (p.update i fun e => { e with cost := cost }) with
                windows := onWindow (Window.charge cost e.pinned) (e.refunded p.windows) k }, [])
          else
            ({ (p.update i fun e => { e.offWindow with unplaced := true, cost := cost }) with
                windows := e.refunded p.windows },
              [.conditionSet .planUnplaced i (!p.anyUnplaced)])
      | none => (p.update i fun e => { e with cost := cost }, [])
  | none => (p, [])

/-! ### Pins (R158, R159) -/

/-- Unpinned entries of a slot's window are taken off it, the latest first, until the window has room for a cost;
`es` are its unpinned entries, latest first (R158). -/
def makeRoom (k cost : Nat) (p : PlanUnit) (es : List PlanEntry) : PlanUnit :=
  es.foldl (fun p e =>
    match p.window k with
    | some w =>
        if w.remaining < cost then
          { (p.update e.element PlanEntry.offWindow) with windows := e.refunded p.windows }
        else p
    | none => p) p

def PlanUnit.unpinnedIn (p : PlanUnit) (k : Nat) : List PlanEntry :=
  p.queue.reverse.filter fun e => !e.pinned && e.window == some k

/-- The element's entry stands pinned to the slot, not yet charged: an old window is given up, a new entry joins,
a full queue displaces its last unpinned entry (R158). -/
def PlanUnit.seatPin (c : Nat) (e : PlanEntry) (k : Nat) (p : PlanUnit) : PlanUnit × List AlertEvent :=
  match p.entry? e.element with
  | some old =>
      ({ (p.update e.element fun x => { x with window := some k, pinned := true, unplaced := false }) with
          windows := old.refunded p.windows }, [])
  | none =>
      let new := { e with window := some k, pinned := true, unplaced := false }
      if p.queue.length < queueLimit then (p.insert c new, [])
      else
        match p.lastUnpinned? c with
        | some last => ((p.remove last).insert c new, [.raised .planFull last.element])
        | none => (p.insert c new, [])

/-- An accepted PIN, before its replan (R158). The order by which entries are displaced or taken off the window is
set with the clock as PIN is taken, DESIGN CHOICE (notes/assumptions/22.md). -/
def PlanUnit.pin (c : Nat) (e : PlanEntry) (k : Nat) (p : PlanUnit) : PlanUnit × List AlertEvent :=
  let seated := (p.reorder c).seatPin c e k
  let cost := ((seated.1.entry? e.element).map PlanEntry.cost).getD e.cost
  let roomy := makeRoom k cost seated.1 (seated.1.unpinnedIn k)
  let charged := { roomy with windows := onWindow (Window.charge cost true) roomy.windows k }
  (charged, seated.2 ++ settleEnd p charged)

/-- An accepted UNPIN, before its replan (R159). -/
def PlanUnit.unpin (e : PlanEntry) (p : PlanUnit) : PlanUnit :=
  { (p.update e.element fun x => { x with pinned := false }) with
    windows := match e.window with
      | some k => onWindow (fun w => { w with pinnedLoad := w.pinnedLoad - e.cost }) p.windows k
      | none => p.windows }

/-! ### The plan unit in the part -/

/-- The plan unit's new state is stored and its alerts are raised. -/
def State.takePlan (s : State) (r : PlanUnit × List AlertEvent) : State :=
  { s with plan := r.1, alerts := s.alerts.takeAll r.2 }

/-- The replan of the part as it stands (R148). -/
def State.replanOf (s : State) : Replan :=
  s.plan.replan s.clock s.options.horizon s.options.companionPercent s.elements

def State.replan (s : State) : State := s.takePlan (s.replanOf.unit, s.replanOf.alerts)

end Sys2Proof.Machine
end

