-- ==== Sys2Proof/Machine/Elements.lean ====
section
/-! DEFINITION. The element table: projection (R138), the evaluation of an element with its milestones and
hand-offs (R5 to R11), the roll (R135) and the interval restart (R130). -/

namespace Sys2Proof.Machine

/-! ### Projection -/

/-- n of R138. -/
def Fitting.rateIntervals (f : Fitting) : Nat := min f.intervals 16

/-- The sum of the n newest history values (R138). -/
def Fitting.rateSum (f : Fitting) : Nat := (f.history.take f.rateIntervals).sum

/-- m of R138: the minutes to due, rounded up. -/
def Fitting.minutesToDue (f : Fitting) (intervalLength : Nat) : Nat :=
  ((f.settings.due - f.accumulator) * f.rateIntervals * intervalLength + (f.rateSum - 1)) / f.rateSum

/-- R138, for an assigned element. -/
def Fitting.projected (f : Fitting) (intervalLength : Nat) (clock : Option Nat) : Projection :=
  if f.state.reachedDue then .now
  else
    match clock with
    | none => .unknown
    | some c =>
        if f.intervals < 2 then .unknown
        else if f.rateSum = 0 then .never
        else if maxMinute < c + f.minutesToDue intervalLength then .never
        else .minute (c + f.minutesToDue intervalLength)

/-- The projection set directly at a start-up and an interval restart (R139). -/
def AssignedState.startProjection (st : AssignedState) : Projection :=
  if st.reachedDue then .now else .unknown

/-! ### Milestones (R9) -/

def Level.alert : Level → AlertKind
  | .advised => .elementAdvised
  | .due => .elementDue
  | .limit => .elementLimit

def Settings.threshold (v : Settings) : Level → Nat
  | .advised => v.advisory
  | .due => v.due
  | .limit => v.limit

def Milestones.reported (m : Milestones) : Level → Bool
  | .advised => m.advisory
  | .due => m.due
  | .limit => m.limit

/-- The levels whose threshold is reached and whose flag is clear, in level order (R9). -/
def Fitting.unreported (f : Fitting) : List Level :=
  [Level.advised, .due, .limit].filter fun l =>
    f.settings.threshold l ≤ f.accumulator && !f.milestones.reported l

/-- The flags after every reached level was reported (R9). -/
def Fitting.reportedFlags (f : Fitting) : Milestones where
  advisory := f.milestones.advisory || f.settings.advisory ≤ f.accumulator
  due := f.milestones.due || f.settings.due ≤ f.accumulator
  limit := f.milestones.limit || f.settings.limit ≤ f.accumulator

def Milestones.clear : Milestones := ⟨false, false, false⟩

/-- The flag of each level whose threshold is above the accumulator is cleared (R20). -/
def Fitting.clearedFlags (f : Fitting) : Milestones where
  advisory := f.milestones.advisory && f.settings.advisory ≤ f.accumulator
  due := f.milestones.due && f.settings.due ≤ f.accumulator
  limit := f.milestones.limit && f.settings.limit ≤ f.accumulator

/-- The threshold state of the element's accumulator (R6). -/
def Fitting.thresholdState (f : Fitting) : AssignedState :=
  Machine.thresholdState f.accumulator f.settings.advisory f.settings.due f.settings.limit

/-! ### Capture (R51) -/

def Level.rank : Level → Nat
  | .advised => 0
  | .due => 1
  | .limit => 2

def Trigger.matches (t : Trigger) (element : Nat) (level : Level) : Bool :=
  t.level.rank ≤ level.rank && (match t.scope with | none => true | some i => i == element)

/-- A milestone offered to the capture (R51). -/
def Capture.offer (record : CaptureRecord) (cap : Capture) : Capture × List AlertEvent :=
  match cap with
  | .armed t =>
      if t.matches record.element record.level then
        (.filled t record, [.raised .captureTaken record.element])
      else (cap, [])
  | .disarmed => (cap, [])
  | .filled _ _ => (cap, [])

/-- The levels of one evaluation are reported and offered one after another (R9, R51). -/
def reportLevels (record : Level → CaptureRecord) (cap : Capture) : List Level → Capture × List AlertEvent
  | [] => (cap, [])
  | l :: ls =>
      let offered := cap.offer (record l)
      let rest := reportLevels record offered.1 ls
      (rest.1, .raised l.alert (record l).element :: offered.2 ++ rest.2)

/-! ### Evaluation -/

/-- The outcome of an evaluation: the record as it stands, the levels reported, whether the state changed (other
than by the end of break-in of R7), and whether the projection changed. -/
structure Evaluation where
  fitting : Fitting
  levels : List Level
  moved : Bool
  projectionMoved : Bool

/-- R9, R10: with the state in place, every unreported level is reported, and the projection is recomputed where
the state changed, a milestone was reported, or the caller's rule asks for it. -/
def Fitting.settle (f : Fitting) (moved always : Bool) (intervalLength : Nat) (clock : Option Nat) : Evaluation :=
  let projection :=
    if moved || always || f.unreported ≠ [] then f.projected intervalLength clock else f.projection
  { fitting := { f with milestones := f.reportedFlags, projection := projection }
    levels := f.unreported
    moved := moved
    projectionMoved := projection != f.projection }

/-- The state after a charge, and the break-in left; `passage` says that the charge was an item passage
(R7, R8). -/
def Fitting.afterCharge (passage : Bool) (f : Fitting) : Fitting :=
  match f.state with
  | .breakIn =>
      if f.accumulator < f.settings.advisory then
        if passage && f.breakInRemaining == 0 then { f with state := .service } else f
      else { f with state := f.thresholdState, breakInRemaining := 0 }
  | .service | .advised | .due | .limit => { f with state := f.thresholdState }

/-- The evaluation of a charge: going to SERVICE by the end of break-in is no move (R7, R8, R10). -/
def Fitting.evaluate (passage : Bool) (intervalLength : Nat) (clock : Option Nat) (f : Fitting) : Evaluation :=
  let g := f.afterCharge passage
  g.settle (g.state != f.state && !(f.state == .breakIn && g.state == .service)) false intervalLength clock

/-- What the capture records of a milestone (R52). -/
structure Offer where
  element : Nat
  source : MilestoneSource
  minute : Option Nat

/-- The alerts and the capture of one evaluation (R9, R51). -/
def State.reported (s : State) (o : Offer) (ev : Evaluation) : Capture × List AlertEvent :=
  reportLevels
    (fun level =>
      { element := o.element, level, source := o.source, mode := s.wear.mode, minute := o.minute,
        after := ev.fitting.accumulator })
    s.wear.capture ev.levels

/-- The plan notice of one evaluation: a milestone notice where the state changed to ADVISED, DUE or LIMIT, else
a projection notice where the projection changed (R10, R14, R20). -/
def State.planNotice (s : State) (i : Nat) (ev : Evaluation) : PlanUnit × List AlertEvent :=
  match ev.moved, ev.fitting.state.reason? with
  | true, some reason =>
      s.plan.milestoneNotice s.clock
        { element := i, generation := (s.element i).generation, reason, due := ev.fitting.projection,
          cost := ev.fitting.settings.cost }
  | _, _ =>
      if ev.projectionMoved then (s.plan.projectionNotice s.clock i ev.fitting.projection, [])
      else (s.plan, [])

/-- The record of an evaluation is stored and its hand-offs are made (R10): alerts and capture, the plan
notice, and for an element that entered LIMIT the re-evaluation of its transport. -/
def State.handOff (s : State) (o : Offer) (ev : Evaluation) : State :=
  let elements := tset s.elements o.element { s.element o.element with position := .assigned ev.fitting }
  let reported := s.reported o ev
  let planned := s.planNotice o.element ev
  let t := ev.fitting.settings.transport
  { s with
    elements := elements
    wear := { s.wear with capture := reported.1 }
    plan := planned.1
    hold :=
      if ev.moved && ev.fitting.state == .limit then
        s.hold.reevaluate s.arbiterOn (wishOf elements t) t
      else s.hold
    alerts := s.alerts.takeAll (reported.2 ++ planned.2) }

/-! ### The roll and the interval restart -/

/-- One element's roll (R135). -/
def Fitting.rolled (intervalLength : Nat) (carried : Option Nat) (f : Fitting) : Fitting :=
  let g : Fitting :=
    { f with
      history := min f.intervalWear max16 :: f.history.take 15
      intervalWear := 0
      intervals := min (f.intervals + 1) 16 }
  { g with projection := g.projected intervalLength carried }

def noHistory : List Nat := List.replicate 16 0

/-- The clear of an interval restart (R130). -/
def Fitting.restarted (f : Fitting) : Fitting :=
  { f with history := noHistory, intervals := 0, intervalWear := 0, projection := f.state.startProjection }

/-- What a rule does to every assigned element. -/
def Element.onFitting (g : Fitting → Fitting) (e : Element) : Element :=
  match e.position with
  | .assigned f => { e with position := .assigned (g f) }
  | .vacant => e
  | .suspect => e

/-- The roll's examinations of `count` elements from `first` on (R135, R136). -/
def rollTable (intervalLength : Nat) (carried : Option Nat) (first count : Nat) (es : Vector Element 240) :
    Vector Element 240 :=
  tslice (Element.onFitting (Fitting.rolled intervalLength carried)) first count es

def restartTable (es : Vector Element 240) : Vector Element 240 := tmap (Element.onFitting Fitting.restarted) es

end Sys2Proof.Machine
end

