-- ==== Sys2Proof/Machine/Monitor.lean ====
section
/-! DEFINITION. The transport monitor: samples, sensor health, slip detection, conditions and interval counters
(R71 to R88). -/

namespace Sys2Proof.Machine

/-! ### Classification (R74, R75) -/

/-- R75: the shortfall of the belt in thousandths of the drive speed, rounded down. -/
def slipPerMille (drive belt : Nat) : Nat := if belt < drive then (drive - belt) * 1000 / drive else 0

/-- R74. -/
def classify (minimumDrive drive belt : Nat) (valid : Bool) : SampleClass :=
  if !valid then .invalid
  else if 0 < drive && 6 * drive < 5 * belt then .invalid
  else if drive < minimumDrive then .idle
  else .evaluated (slipPerMille drive belt)

def SampleClass.isValid : SampleClass → Bool
  | .invalid => false
  | .idle => true
  | .evaluated _ => true

/-! ### Sensor window and health (R76 to R78) -/

def Transport.invalidInWindow (r : Transport) : Nat := r.window.count false

/-- One validity joins the window at the newest end, 64 at most staying (R76). -/
def joinWindow (window : List Bool) (valid : Bool) : List Bool := window.drop (window.length - 63) ++ [valid]

/-- R76. -/
def Transport.joined (valid : Bool) (r : Transport) : Transport :=
  { r with
    window := joinWindow r.window valid
    validRun := if valid then satAdd max16 r.validRun 1 else 0
    live := if valid then r.live else { r.live with invalid := satAdd max16 r.live.invalid 1 } }

/-- The sensor state is examined (R77, R78). -/
def Transport.examined (r : Transport) : Transport :=
  match r.sensor with
  | .good =>
      if 6 ≤ r.invalidInWindow then { r with sensor := .failed, slip := .clear, overRun := 0, goodRun := 0 }
      else r
  | .failed => if 32 ≤ r.validRun then { r with sensor := .good, window := [], validRun := 0 } else r

/-! ### Slip detection (R79, R80) -/

/-- An over-limit sample is applied to the detector. -/
def Transport.overLimit (o : Options) (r : Transport) : Transport :=
  let counted := { r with live := { r.live with overLimit := satAdd max16 r.live.overLimit 1 } }
  match r.slip with
  | .clear =>
      if o.slipSetCount ≤ r.overRun + 1 then { counted with slip := .slipping, overRun := 0, goodRun := 0 }
      else { counted with overRun := r.overRun + 1 }
  | .slipping => { counted with goodRun := 0 }

/-- An at-or-under sample is applied to the detector. -/
def Transport.underLimit (o : Options) (r : Transport) : Transport :=
  match r.slip with
  | .clear => { r with overRun := 0 }
  | .slipping =>
      if o.slipClearCount ≤ r.goodRun + 1 then { r with slip := .clear, overRun := 0, goodRun := 0 }
      else { r with goodRun := r.goodRun + 1 }

def Transport.detect (o : Options) (perMille : Nat) (r : Transport) : Transport :=
  if o.slipLimit < perMille then r.overLimit o else r.underLimit o

/-! ### One sample (R72) -/

/-- Steps 1 to 4. -/
def Transport.examinedSample (o : Options) (drive belt : Nat) (valid : Bool) (r : Transport) : Transport :=
  (Transport.joined (classify o.minimumDrive drive belt valid).isValid
    { r with running := decide (0 < drive) }).examined

/-- Step 5: the detector is given an EVALUATED sample of a sensor GOOD before and after step 4. -/
def Transport.detectedSample (o : Options) (drive belt : Nat) (valid : Bool) (r : Transport) : Transport :=
  let e := r.examinedSample o drive belt valid
  match r.sensor, e.sensor, classify o.minimumDrive drive belt valid with
  | .good, .good, .evaluated p => e.detect o p
  | _, _, _ => e

/-- The whole handling of a sample on its transport's record (R72). -/
def Transport.sample (o : Options) (drive belt : Nat) (valid : Bool) (r : Transport) : Transport :=
  { r.detectedSample o drive belt valid with last := some ⟨drive, belt, classify o.minimumDrive drive belt valid⟩ }

/-- What one sample reports for a condition: an entry, or the end of the condition (R83). -/
def conditionReport (kind : AlertKind) (t : Nat) (was is anyBefore anyAfter : Bool) : List AlertEvent :=
  if !was && is then [.conditionSet kind t (!anyBefore)]
  else if was && !is && !anyAfter then [.conditionEnded kind]
  else []

/-- A TACH is handed to the transport monitor (R43, R72, R83). -/
def State.takeSample (s : State) (t drive belt : Nat) (valid : Bool) : State :=
  let before := s.transport t
  let after := before.sample s.options drive belt valid
  let table := tset s.transports t after
  { s with
    transports := table
    alerts := s.alerts.takeAll
      (conditionReport .sensorFail t (before.sensor == .failed) (after.sensor == .failed)
          (anyFailed s.transports) (anyFailed table) ++
        conditionReport .slip t (before.slip == .slipping) (after.slip == .slipping)
          (anySlipping s.transports) (anySlipping table)) }

/-! ### Counters, claims and boundaries (R85 to R88) -/

def Transport.countItem (r : Transport) : Transport :=
  { r with live := { r.live with items := satAdd max16 r.live.items 1 } }

def Transport.countJam (r : Transport) : Transport :=
  { r with live := { r.live with jams := satAdd max16 r.live.jams 1 } }

/-- R87. -/
def Transport.countMinute (r : Transport) : Transport :=
  if r.running then { r with live := { r.live with runningMinutes := satAdd max16 r.live.runningMinutes 1 } }
  else r

/-- R88. -/
def Transport.closeInterval (r : Transport) : Transport := { r with snapshot := r.live, live := .zero }

/-- The claim of MODE IDLE (R30, R86). -/
def Transport.halt (r : Transport) : Transport := { r with running := false }

def State.onTransport (s : State) (t : Nat) (g : Transport → Transport) : State :=
  s.setTransport t (g (s.transport t))

def State.onTransports (s : State) (g : Transport → Transport) : State :=
  { s with transports := tmap g s.transports }

/-- The monitor closes the interval (R88). -/
def State.closeIntervals (s : State) : State :=
  { s.onTransports Transport.closeInterval with snapshotTaken := true }

/-- Some BELT of the transport is in BREAK_IN (R36). -/
def beltBedding (elements : Vector Element 240) (t : Nat) : Bool :=
  (tlist elements).any fun e =>
    match e.position with
    | .assigned f => f.settings.kind == .belt && f.settings.transport == t && f.state == .breakIn
    | .vacant => false
    | .suspect => false

/-- The slip factor S of a charge to an element, as things stand (R36). -/
def State.slipFactor (s : State) (f : Fitting) : Nat :=
  if f.settings.kind == .belt && (s.transport f.settings.transport).slip == .slipping &&
      !beltBedding s.elements f.settings.transport then
    s.options.slipFactor
  else 1

end Sys2Proof.Machine
end

