-- ==== Sys2Proof/Machine/Routing.lean ====
section
/-! DEFINITION. The route map: the item key, the match, the choice of a route and its counters (R54 to R62). -/

namespace Sys2Proof.Machine

/-- R55. -/
def Item.key (it : Item) : BitVec 16 :=
  BitVec.ofNat 16 it.destination ||| (BitVec.ofNat 16 it.thickness <<< 12) |||
    (if it.reject then 0x4000 else 0) ||| (if it.recirculated then 0x8000 else 0)

def RouteMap.mask (m : RouteMap) (k : Nat) : BitVec 16 := tget m.masks k 0

def RouteMap.route (m : RouteMap) (k : Nat) : Route := tget m.routes k .empty

def RouteMap.matchCount (m : RouteMap) (k : Nat) : BitVec 32 := tget m.matchCounts k 0

/-- Key and pattern agree wherever the mask holds 0 (R57). -/
def keyMatches (key pattern mask : BitVec 16) : Bool := (key ^^^ pattern) &&& ~~~mask == 0

def RouteMap.routeMatches (m : RouteMap) (key : BitVec 16) (r : Route) : Bool :=
  r.enabled && keyMatches key r.pattern (m.mask r.maskIndex)

/-- The first enabled route that matches, in index order (R58). -/
def RouteMap.choose (m : RouteMap) (key : BitVec 16) : Option (Route × Nat) :=
  (tenum m.routes).find? fun x => m.routeMatches key x.1

/-- The path an item is charged on (R58 to R60). -/
def RouteMap.pathFor (m : RouteMap) (key : BitVec 16) : List Nat :=
  match m.choose key with
  | some x => m.commonPath ++ x.1.path
  | none => m.commonPath

/-- The map with the item counted in exactly one route counter (R58, R59, R62). -/
def RouteMap.counted (m : RouteMap) (key : BitVec 16) : RouteMap :=
  match m.choose key with
  | some x => { m with matchCounts := tset m.matchCounts x.2 (m.matchCount x.2 + 1) }
  | none => { m with unrouted := m.unrouted + 1 }

/-- R59. -/
def RouteMap.routingAlerts (m : RouteMap) (it : Item) : List AlertEvent :=
  match m.choose it.key with
  | some _ => []
  | none => [.raised .unroutedItem it.destination]

/-- Every route counter set to 0 (R46, R62). -/
def RouteMap.clearCounts (m : RouteMap) : RouteMap :=
  { m with matchCounts := Vector.replicate 32 0, unrouted := 0 }

end Sys2Proof.Machine
end

