-- ==== Sys2Proof/Machine/Wear.lean ====
section
/-! DEFINITION. The wear engine: sizing and applying charges, run charges, and the work of a taken record
(R27 to R45, R48, R49). -/

namespace Sys2Proof.Machine

/-! ### Watch (R48, R49) -/

/-- An entry joins the newest end of the ring; of 16, the oldest leaves first (R48). -/
def joinRing (ring : List WatchEntry) (e : WatchEntry) : List WatchEntry := ring.drop (ring.length - 15) ++ [e]

def WearEngine.watchCharge (w : WearEngine) (i : Nat) (e : WatchEntry) : WearEngine :=
  if w.watched == some i then { w with ring := joinRing w.ring e } else w

/-- A fitting notice (R49). -/
def WearEngine.fittingNotice (w : WearEngine) (i : Nat) : WearEngine :=
  if w.watched == some i then { w with ring := [] } else w

/-! ### Charges -/

/-- A charge, sized: its source, its units, and the plant minute of its milestones (R37, R39, R42, R52). -/
structure Charge where
  source : MilestoneSource
  units : Nat
  minute : Option Nat

def Charge.isItem (c : Charge) : Bool :=
  match c.source with
  | .item _ _ _ _ => true
  | .run | .jam | .setting | .assign => false

def Charge.watchSource (c : Charge) : WatchSource :=
  match c.source with
  | .item serial _ _ _ => .item serial
  | .jam => .jam
  | .run | .setting | .assign => .run

/-- The account with a charge added: accumulator and interval wear, and by source the passages with break-in
remaining, or the run minutes (R37, R39, R42, R44). -/
def Fitting.charge (c : Charge) (f : Fitting) : Fitting :=
  let added : Fitting :=
    { f with
      accumulator := satAdd max32 f.accumulator c.units
      intervalWear := satAdd max32 f.intervalWear c.units }
  match c.source with
  | .item _ _ _ _ =>
      { added with
        passages := satAdd max32 f.passages 1
        breakInRemaining := if f.state == .breakIn then f.breakInRemaining - 1 else f.breakInRemaining }
  | .run => { added with runMinutes := satAdd max32 f.runMinutes 1 }
  | .jam | .setting | .assign => added

/-- One charge to an assigned element, applied and evaluated whole (R8, R44). -/
def State.applyCharge (s : State) (i : Nat) (f : Fitting) (c : Charge) : State :=
  let g := f.charge c
  let watched := s.wear.watchCharge i ⟨c.watchSource, c.units, g.accumulator⟩
  { s with wear := watched }.handOff ⟨i, c.source, c.minute⟩
    (g.evaluate c.isItem s.options.intervalLength s.clock)

/-! ### Items (R33 to R38) -/

/-- L of R35. -/
def lengthFactor (kind : ElementKind) (length : Nat) : Nat :=
  match kind with
  | .roller => 1
  | .belt => max 1 (min 6 ((length + 99) / 100))

def ClassWeights.ofClass (w : ClassWeights) (thickness : Nat) : Nat :=
  match thickness with
  | 0 => w.class0
  | 1 => w.class1
  | 2 => w.class2
  | _ => w.class3

/-- R35. -/
def State.itemUnits (s : State) (it : Item) (f : Fitting) : Nat :=
  ClassWeights.ofClass f.settings.weights it.thickness * lengthFactor f.settings.kind it.length * s.slipFactor f

def Item.source (it : Item) : MilestoneSource := .item it.serial it.destination it.thickness it.length

/-- One position of an item's path: skipped, or charged; the second component gathers the transports charged
(R34, R37, R38). -/
def chargePosition (it : Item) (acc : State × List Nat) (i : Nat) : State × List Nat :=
  let s := acc.1
  match s.fitting? i with
  | some f =>
      if s.wear.mode.counts f.settings.modeSet then
        (s.applyCharge i f ⟨it.source, s.itemUnits it f, s.clock⟩, f.settings.transport :: acc.2)
      else acc
  | none => acc

/-- The transport hand-off of an item: each transport charged, once (R38). -/
def State.handOffTransports (s : State) (ts : List Nat) : State :=
  ts.dedup.foldl (fun s t => s.onTransport t Transport.countItem) s

/-- Items counted rises, the route is chosen and counted, and an unrouted item is reported (R33, R58, R59). -/
def State.routeItem (s : State) (it : Item) : State :=
  { s with
    wear := { s.wear with counted := s.wear.counted + 1 }
    routes := s.routes.counted it.key
    alerts := s.alerts.takeAll (s.routes.routingAlerts it) }

/-! ### A record's work in progress (R27, R28, R136) -/

def State.setWork (s : State) (w : Option RecordWork) : State := { s with wear := { s.wear with work := w } }

/-- A charge of the record has been applied, so that its charges fall in the interval then running (R28). -/
def RecordWork.charged : RecordWork → Bool
  | .item _ _ transports => transports ≠ []
  | .jam _ _ _ charged => charged

/-- A record is in work that has been charged: a boundary's roll waits for it (R28, R136). -/
def State.recordCharged (s : State) : Bool :=
  match s.wear.work with
  | some w => w.charged
  | none => false

/-- A roll that waits for the record in work begins once that work is done (R136). -/
def BoundaryMark.afterRecord (b : BoundaryMark) : BoundaryMark :=
  match b.phase with
  | .waits => { b with phase := .rolling 0 }
  | .due => b
  | .rolling _ => b

/-- The work of the record is done (R27). -/
def State.recordDone (s : State) : State :=
  { s.setWork none with timer := { s.timer with boundary := s.timer.boundary.map BoundaryMark.afterRecord } }

/-- The next acts of an ITEM's work: positions of its path, and after the last the transport hand-off, which ends
the work (R33, R34, R38). -/
def State.itemWork (s : State) (acts : Option Nat) (it : Item) (path transports : List Nat) : State :=
  let reached := acts.getD (path.length + 1)
  let charged := (path.take reached).foldl (chargePosition it) (s, transports)
  if reached ≤ path.length then charged.1.setWork (some (.item it (path.drop reached) charged.2))
  else (charged.1.handOffTransports charged.2).recordDone

/-! ### Run and jam charges (R39, R42) -/

/-- One element examined at a minute tick (R39); the tick carries the minute. -/
def runCharge (carried : Option Nat) (s : State) (i : Nat) : State :=
  match s.fitting? i with
  | some f =>
      if (s.transport f.settings.transport).running && s.wear.mode.counts f.settings.modeSet then
        s.applyCharge i f ⟨.run, f.settings.runWeight * s.slipFactor f, carried⟩
      else s
  | none => s

/-- The run charges of the last tick go on over the next `examined` elements, all that are left where none is
given (R39, R40). -/
def State.runOn (s : State) (examined : Option Nat) : State :=
  match s.timer.runs with
  | some p =>
      let count := examined.getD 240
      let u := ((indexesFrom p.next).take count).foldl (runCharge p.carried) s
      { u with timer := { u.timer with
          runs := if p.next + count < 240 then some { p with next := p.next + count } else none } }
  | none => s

/-- The element counts jam wear of the transport (R42). -/
def State.takesJam (s : State) (t i : Nat) : Bool :=
  match s.fitting? i with
  | some f => f.settings.transport == t && s.wear.mode.counts f.settings.modeSet
  | none => false

/-- One element examined for jam wear (R42). -/
def jamCharge (t severity : Nat) (s : State) (i : Nat) : State :=
  match s.fitting? i with
  | some f =>
      if f.settings.transport == t && s.wear.mode.counts f.settings.modeSet then
        s.applyCharge i f ⟨.jam, f.settings.jamWeight * severity, s.clock⟩
      else s
  | none => s

/-- The next acts of a JAM's work in COUNTING: elements examined from `next` on, the last of which ends the work
(R42). -/
def State.jamWork (s : State) (acts : Option Nat) (t severity next : Nat) (charged : Bool) : State :=
  let count := acts.getD 240
  let examined := (indexesFrom next).take count
  let u := examined.foldl (jamCharge t severity) s
  if next + count < 240 then
    u.setWork (some (.jam t severity (next + count) (charged || examined.any (s.takesJam t))))
  else u.recordDone

/-! ### Records (R27) -/

/-- R29, R30. -/
def State.takeMode (s : State) (m : LineMode) : State :=
  let set := { s with wear := { s.wear with mode := m } }
  if m == .idle then set.onTransports Transport.halt else set

/-- The work of a record as it is taken (R27): the engine state that decides it is the one read now. -/
def State.beginRecord (s : State) (acts : Option Nat) : LineRecord → State
  | .item it =>
      if s.engine == .counting then (s.routeItem it).itemWork acts it (s.routes.pathFor it.key) []
      else { s with wear := { s.wear with notCounted := s.wear.notCounted + 1 } }
  | .mode m => s.takeMode m
  | .tach t drive belt valid => s.takeSample t drive belt valid
  | .jam t severity =>
      if s.engine == .counting then (s.onTransport t Transport.countJam).jamWork acts t severity 0 false
      else s.onTransport t Transport.countJam

/-- The record in work goes on (R27, R28). -/
def State.goOn (s : State) (acts : Option Nat) : State :=
  match s.wear.work with
  | some (.item it path transports) => (s.setWork none).itemWork acts it path transports
  | some (.jam t severity next charged) => (s.setWork none).jamWork acts t severity next charged
  | none => s

/-- A roll is in progress (R136). -/
def MinuteTimer.rolls (m : MinuteTimer) : Bool :=
  match m.boundary with
  | some ⟨_, .rolling _⟩ => true
  | some ⟨_, .due⟩ => false
  | some ⟨_, .waits⟩ => false
  | none => false

/-- Charges of a record wait while a roll is in progress (R28, R136). -/
def State.actsAllowed (s : State) (acts : Option Nat) : Option Nat := if s.timer.rolls then some 0 else acts

end Sys2Proof.Machine
end

