-- ==== Sys2Proof/Machine/Checkpoints.lean ====
section
/-! DEFINITION. The checkpoint unit and the store: record copies, writes, triggers, the restore and the start-up
(R163 to R178). -/

namespace Sys2Proof.Machine

/-! ### Validity of records (R164, R165) -/

def Route.ok (r : Route) : Bool := r.maskIndex ≤ 7 && r.path.length ≤ 16 && r.path.all fun i => i ≤ 239

/-- R164. -/
def HeaderRecord.ok (h : HeaderRecord) : Bool :=
  h.options.ok && (tlist h.routes).all Route.ok && h.commonPath.length ≤ 16 &&
  (h.commonPath.all fun i => i ≤ 239) && h.engine != .starting

/-- The state agrees with the accumulator (R165). -/
def Account.stateOk (a : Account) : Bool :=
  match a.state with
  | .breakIn => a.accumulator < a.settings.advisory
  | .service | .advised | .due | .limit =>
      a.state == thresholdState a.accumulator a.settings.advisory a.settings.due a.settings.limit

/-- R165, for a record read from slot `i`. -/
def ElementRecord.ok (i : Nat) (r : ElementRecord) : Bool :=
  r.index == i &&
  (match r.position with
    | .assigned a => a.settings.ok && a.intervals ≤ 16 && a.stateOk
    | .vacant => true
    | .suspect => true)

/-- The condition the store finds a slot in (R163): a record that fails its checks makes the slot invalid. -/
def StoreSlot.checked {α : Type} (ok : α → Bool) (x : StoreSlot α) : StoreSlot α :=
  match x with
  | .written r => if ok r then .written r else .torn
  | .blank => .blank
  | .torn => .torn

def Store.checkedHeader (st : Store) : StoreSlot HeaderRecord := st.header.checked HeaderRecord.ok

def Store.element (st : Store) (i : Nat) : StoreSlot ElementRecord := tget st.elements i .blank

/-- The element slots with their numbers, each in the condition the store finds it in. -/
def Store.checkedElements (st : Store) : List (StoreSlot ElementRecord) :=
  (tenum st.elements).map fun x => x.1.checked (ElementRecord.ok x.2)

/-! ### Writing (R166 to R170) -/

/-- The header's copy (R164, R167). -/
def State.headerCopy (s : State) (sequence : BitVec 32) : HeaderRecord where
  masks := s.routes.masks
  routes := s.routes.routes
  commonPath := s.routes.commonPath
  options := s.options
  noticeMask := s.alerts.mask
  engine := s.engine
  sequence := sequence

def Position.saved : Position → SavedPosition
  | .vacant => .vacant
  | .suspect => .suspect
  | .assigned f => .assigned f.toAccount

/-- An element's copy (R165, R167). -/
def State.elementCopy (s : State) (i : Nat) (sequence : BitVec 32) : ElementRecord where
  index := i
  generation := (s.element i).generation
  position := (s.element i).position.saved
  sequence := sequence

/-- The copy of the record at a place, as the live state now gives it (R167). -/
def State.recordAt (s : State) (place : Nat) : RecordCopy :=
  match place with
  | 0 => .header (s.headerCopy s.ckpt.sequence)
  | i + 1 => .element i (s.elementCopy i s.ckpt.sequence)

/-- A checkpoint starts: a new sequence number, and the cursor on the header (R167). -/
def State.beginCheckpoint (s : State) : State :=
  { s with
    ckpt := { s.ckpt with
      progress := .due 0
      sequence := s.ckpt.sequence + 1
      failedSoFar := 0
      firstFailed := none } }

def Progress.isWriting : Progress → Bool
  | .due _ | .writing _ => true
  | .idle | .done | .failed => false

/-- A trigger that acts (R170). -/
def State.triggerCheckpoint (s : State) : State :=
  if s.ckpt.progress.isWriting then { s with ckpt := { s.ckpt with pending := true } }
  else s.beginCheckpoint

/-- The number of the slot at a place, 240 the header (R168, R180). -/
def slotAt : Nat → Nat
  | 0 => 240
  | i + 1 => i

/-- The place of a copy's slot in the order of writing: 0 the header, n + 1 element n. -/
def RecordCopy.place : RecordCopy → Nat
  | .header _ => 0
  | .element i _ => i + 1

def RecordCopy.slotNumber (copy : RecordCopy) : Nat := slotAt copy.place

/-- The store with a copy written to its slot. -/
def Store.write (st : Store) : RecordCopy → Store
  | .header r => { st with header := .written r }
  | .element i r => { st with elements := tset st.elements i (.written r) }

/-- The store with the slot of a copy left blank. -/
def Store.blankAt (st : Store) : RecordCopy → Store
  | .header _ => { st with header := .blank }
  | .element i _ => { st with elements := tset st.elements i .blank }

/-- The store with the slot of a copy left invalid. -/
def Store.tearAt (st : Store) : RecordCopy → Store
  | .header _ => { st with header := .torn }
  | .element i _ => { st with elements := tset st.elements i .torn }

/-- What a record write leaves in its slot (R168). -/
def Store.afterWrite (st : Store) (copy : RecordCopy) : WriteResult → Store
  | .verified => st.write copy
  | .leftBlank => st.blankAt copy
  | .leftOld => st
  | .leftInvalid => st.tearAt copy

/-- The counts of failures after one record (R168). -/
def CheckpointUnit.counted (k : CheckpointUnit) (copy : RecordCopy) (result : WriteResult) : CheckpointUnit :=
  if result == .verified then k
  else
    { k with
      failedSoFar := k.failedSoFar + 1
      firstFailed := match k.firstFailed with | some n => some n | none => some copy.slotNumber }

/-- The checkpoint ends (R168). -/
def State.endCheckpoint (s : State) : State :=
  let ended :=
    if s.ckpt.failedSoFar = 0 then
      { s with
        ckpt := { s.ckpt with progress := .done, lastFailed := 0 }
        alerts := s.alerts.take (.raised .checkpointDone (s.ckpt.sequence.toNat % 65536)) }
    else
      { s with
        ckpt := { s.ckpt with progress := .failed, lastFailed := s.ckpt.failedSoFar }
        alerts := s.alerts.take (.raised .checkpointFail (s.ckpt.firstFailed.getD 0)) }
  if s.ckpt.pending then { ended with ckpt := { ended.ckpt with pending := false } }.beginCheckpoint
  else ended

/-- After the record at a place the cursor moves to the next one, and after element 239 the checkpoint ends (R167,
R168). -/
def State.nextRecord (s : State) (place : Nat) : State :=
  if place < 240 then { s with ckpt := { s.ckpt with progress := .due (place + 1) } } else s.endCheckpoint

/-- The write of a copy is done and verified, and the cursor moves (R168). -/
def State.finishRecord (s : State) (copy : RecordCopy) (result : WriteResult) : State :=
  { s with
    store := s.store.afterWrite copy result
    ckpt := s.ckpt.counted copy result }.nextRecord copy.place

/-- The record under the cursor: one not yet begun is copied, and written and verified at once or, where other events
come between, only begun; one begun is written and verified; nothing where no checkpoint runs (R167, R168;
notes/assumptions/4.md, 12.md). -/
def State.recordWritten (s : State) (result : WriteResult) : State :=
  match s.ckpt.progress with
  | .due place =>
      match s.cut with
      | none => s.cutTaken.finishRecord (s.recordAt place) result
      | some _ => { s.cutTaken with ckpt := { s.ckpt with progress := .writing (s.recordAt place) } }
  | .writing copy => s.finishRecord copy result
  | .idle => s
  | .done => s
  | .failed => s

/-- The store once the write in progress, if one has begun, is complete (R163, R176). A start-up completes it in its
own first step, DESIGN CHOICE (notes/assumptions/23.md). -/
def State.committedStore (s : State) : Store :=
  match s.ckpt.progress with
  | .writing copy => s.store.write copy
  | .due _ => s.store
  | .idle => s.store
  | .done => s.store
  | .failed => s.store

/-- A record's write has begun and is not yet verified: no READ SAVE STATUS reply falls here (R172). -/
def Progress.midRecord : Progress → Bool
  | .writing _ => true
  | .due _ | .idle | .done | .failed => false

/-- The cursor as a reply gives it: 240 the header, 255 none (R166, R180). -/
def Progress.cursor : Progress → Nat
  | .due place => slotAt place
  | .writing copy => copy.slotNumber
  | .idle | .done | .failed => 255

def Progress.code : Progress → Nat
  | .idle => 0
  | .due _ | .writing _ => 1
  | .done => 2
  | .failed => 3

/-! ### Erase and loss of power (R176, R178) -/

/-- The slots up to and including a place are blank; those beyond keep their records (R178). -/
def Store.erasedTo (st : Store) (place : Nat) : Store where
  header := .blank
  elements := ⟨⟨(tenum st.elements).map fun x => if x.2 < place then .blank else x.1⟩, by simp [tenum]⟩

/-- The slot of a place left torn by a cut-off erase (R178). -/
def Store.tornAt (st : Store) (place : Nat) : Store :=
  if place = 0 then { st with header := .torn } else { st with elements := tset st.elements (place - 1) .torn }

/-- The record under the cursor, of which a loss of power finds the write begun (R176): a write not begun before
begins at the loss (notes/assumptions/7.md). -/
def State.recordUnderCursor (s : State) : Option RecordCopy :=
  match s.ckpt.progress with
  | .due place => some (s.recordAt place)
  | .writing copy => some copy
  | .idle | .done | .failed => none

/-- What a loss of power leaves of the slot under the cursor (R163, R176). -/
def State.cutStore (s : State) (tear : Tear) : Store :=
  match s.recordUnderCursor, tear with
  | some copy, .newRecord => s.store.write copy
  | some copy, .invalid => s.store.tearAt copy
  | _, _ => s.store

/-! ### Start-up (R173 to R175) -/

/-- A start-up begins over a store: STARTING, and every block takes its values after start-up; the restore is still
to be made (R173; notes/assumptions/8.md). `erasing` says that a WIPE's erase runs. -/
def State.beginStartup (s : State) (store : Store) (erasing : Bool) : State where
  powered := true
  engine := .starting
  clock := none
  timer := .fresh false
  options := .defaults
  elements := Vector.replicate 240 .vacant
  wear := .fresh
  routes := .fresh
  transports := Vector.replicate 32 .fresh
  snapshotTaken := false
  line := .fresh
  hold := .fresh
  plan := .fresh
  ckpt := { CheckpointUnit.fresh with erasing, restored := false }
  store := store
  host := .fresh
  alerts := .fresh
  freeCount := s.freeCount
  schedule := s.schedule
  pending := s.pending

/-- A restored element (R25, R173). -/
def restoredElement : StoreSlot ElementRecord → Element
  | .blank => .vacant
  | .torn => ⟨0, .suspect⟩
  | .written r =>
      { generation := r.generation
        position := match r.position with
          | .vacant => .vacant
          | .suspect => .suspect
          | .assigned a =>
              .assigned { a with intervalWear := 0, projection := a.state.startProjection } }

/-- The element table that a store restores (R173). -/
def Store.restored (st : Store) : Vector Element 240 :=
  ⟨⟨st.checkedElements.map restoredElement⟩, by simp [Store.checkedElements, tenum]⟩

/-- The valid records whose sequence number is not the valid header's (R173). -/
def Store.staleCount (st : Store) : Nat :=
  match st.checkedHeader with
  | .written h =>
      st.checkedElements.countP fun x => match x with | .written r => r.sequence != h.sequence | _ => false
  | .blank => 0
  | .torn => 0

/-- The elements that start SUSPECT, in order (R173). -/
def suspectIndexes (es : Vector Element 240) : List Nat :=
  (tenum es).filterMap fun x => if x.1.isSuspect then some x.2 else none

/-- R174. -/
def Store.outcome (st : Store) : StartOutcome :=
  match st.checkedHeader with
  | .written _ => if suspectIndexes st.restored = [] then .restored else .incomplete
  | .blank =>
      if st.elements.toArray.toList.all (· == .blank) then .fresh
      else if suspectIndexes st.restored = [] then .defaults else .incomplete
  | .torn => .incomplete

/-- The engine state chosen for the end of start-up (R175). -/
def Store.chosenEngine (st : Store) : EngineState :=
  match st.checkedHeader with
  | .written h => if h.engine == .counting && suspectIndexes st.restored = [] then .counting else .stopped
  | .blank => .stopped
  | .torn => .stopped

/-- RESTORE_INCOMPLETE: for an invalid header, and for the first element that starts SUSPECT (R173, R174). -/
def Store.restoreAlerts (st : Store) : List AlertEvent :=
  (if st.checkedHeader == .torn then [.raised .restoreIncomplete 240] else []) ++
  (match (suspectIndexes st.restored).head? with
    | some i => [.raised .restoreIncomplete i]
    | none => [])

/-- The configuration of a valid header is restored; otherwise the defaults stand (R174). -/
def State.restoreHeader (s : State) (st : Store) : State :=
  match st.checkedHeader with
  | .written h =>
      { s with
        routes := { s.routes with masks := h.masks, routes := h.routes, commonPath := h.commonPath }
        options := h.options
        alerts := { s.alerts with mask := h.noticeMask }
        ckpt := { s.ckpt with sequence := h.sequence } }
  | .blank => s
  | .torn => s

/-- The elements and the counts of the restore (R173, R174). -/
def State.restoreElements (s : State) (st : Store) : State :=
  { s with
    elements := st.restored
    ckpt := { s.ckpt with
      outcome := st.outcome
      stale := st.staleCount
      suspects := (suspectIndexes st.restored).length
      erasing := false
      restored := true }
    alerts := s.alerts.takeAll st.restoreAlerts }

/-- The store the restore reads: a WIPE's erase has then blanked every slot (R178). -/
def State.restoreStore (s : State) : Store := if s.ckpt.erasing then .erased else s.store

/-- The restore, once in a start-up, with the plan at its value after start-up (R146, R173, R174). -/
def State.restore (s : State) : State :=
  if s.ckpt.restored then s
  else
    let st := s.restoreStore
    ({ s with store := st, plan := .fresh }.restoreHeader st).restoreElements st

/-- Start-up ends (R175): the restore where it has not been made, the post-restore pass over a hold unit and a plan
at their values after start-up (R127, R142, R146), the engine state that the store read chooses, the minute timer,
and the hold unit's arbiter. -/
def State.endStartup (s : State) : State :=
  let r := s.restore
  { r with
    engine := r.store.chosenEngine
    timer := { r.timer with running := true }
    hold := (HoldUnit.fresh.postRestore (wishOf r.elements)).arbiter true
    plan := .fresh }

end Sys2Proof.Machine
end

