-- ==== Sys2Proof/Machine/HostLink.lean ====
section
/-! DEFINITION. The host link: the framer, judging and taking of requests, replies, and the transmitter's
arbitration (R179, R181 to R185, R194, R195). -/

namespace Sys2Proof.Machine

/-! ### Framer (R181) -/

/-- One byte in a receive state; the second component is the frame it completes. -/
def HostRx.step (rx : HostRx) (b : Byte) : HostRx × Option HostFrame :=
  match rx with
  | .hunting => (if b = 0xA5 then .header else .hunting, none)
  | .header => (if 1 ≤ b.toNat ∧ b.toNat ≤ 241 then .payload b.toNat [] else .hunting, none)
  | .payload n stored =>
      let stored := stored ++ [b]
      (if stored.length = n then .check stored none else .payload n stored, none)
  | .check body none => (.check body (some b), none)
  | .check body (some low) => (.hunting, some ⟨body, checkOf low b⟩)

/-- The check of a host frame: over the length byte and the bytes it counts (R179). -/
def hostCheck (body : List Byte) : BitVec 16 := crc16 (u8 body.length ++ body)

/-- A host frame as sent (R179). -/
def hostFrame (body : List Byte) : List Byte := [0xA5] ++ u8 body.length ++ body ++ checkBytes (hostCheck body)

/-! ### Judging (R182) -/

/-- The reply code of a request code: bit 7 set, or 0x80 where bit 7 was set or the code is 0x7F (R182, R183). -/
def replyCode (code : Byte) : Byte := if code.msb || code == 0x7F then 0x80 else code ||| 0x80

/-- The command number of a code (R179). -/
def commandOf (code : Byte) : Nat := code.toNat % 64

/-- A reply that carries its status alone (R182). -/
def bareReply (code : Byte) (status : Status) : Reply := ⟨code, status, [], [], .nothing⟩

/-- A taken frame is judged; a request that passes is dispatched (R182). -/
def judge (engine : EngineState) (f : HostFrame) : InHand :=
  let code := f.body.headD 0
  if hostCheck f.body ≠ f.check then ⟨code, .ready (bareReply 0x80 .badCheck)⟩
  else if engine = .starting then ⟨code, .ready (bareReply (replyCode code) .starting)⟩
  else if code.msb || code == 0x7F then ⟨code, .ready (bareReply 0x80 .unknownCommand)⟩
  else
    match decodeRequest (commandOf code) f.body.tail with
    | .unknownCommand => ⟨code, .ready (bareReply (replyCode code) .unknownCommand)⟩
    | .badLength => ⟨code, .ready (bareReply (replyCode code) .badLength)⟩
    | .request i => ⟨code, .executing i⟩

/-- The length of the BUSY list at which a further frame is dropped (R183). -/
abbrev busyLimit : Nat := 4

/-- What becomes of a complete frame (R183). -/
def HostLink.complete (engine : EngineState) (f : HostFrame) (h : HostLink) : HostLink :=
  match h.inHand, h.held with
  | none, _ => { h with inHand := some (judge engine f) }
  | some _, none => { h with held := some f }
  | some _, some _ =>
      if h.busy.length < busyLimit then { h with busy := h.busy ++ [f.body.headD 0] } else h

/-- One byte received (R181, R183). -/
def HostLink.receive (engine : EngineState) (h : HostLink) (b : Byte) : HostLink :=
  let stepped := h.rx.step b
  match stepped.2 with
  | some f => { h with rx := stepped.1 }.complete engine f
  | none => { h with rx := stepped.1 }

def State.hostReceive (s : State) (bytes : List Byte) : State :=
  { s with host := bytes.foldl (HostLink.receive s.engine) s.host }

/-- The request in hand ends; a held frame is taken (R183). -/
def HostLink.finish (engine : EngineState) (h : HostLink) : HostLink :=
  { h with tx := none, inHand := h.held.map (judge engine), held := none }

/-! ### Answering (R182, R185) -/

/-- What an owning block answers: the part after its work, the status, the payload, and what follows the reply. -/
structure Answer where
  state : State
  status : Status
  payload : List Byte
  after : AfterReply

/-- A request turned away: nothing changes (R182 and the requests' own rules). -/
def refuse (s : State) (status : Status) : Answer := ⟨s, status, [], .nothing⟩

/-- A request accepted with OK. -/
def accept (s : State) (payload : List Byte) : Answer := ⟨s, .ok, payload, .nothing⟩

/-- The six summary bytes (R185). -/
def State.summary (s : State) : List Byte :=
  u8 s.engine.code ++ u8 s.wear.mode.code ++ u32 s.alerts.latched.toNat

/-- The reply of the request in hand becomes ready, with its summary where bit 6 asks for one (R184, R185). -/
def Answer.reply (a : Answer) (code : Byte) : Reply where
  code := replyCode code
  status := a.status
  payload := a.payload
  summary := if code.getLsbD 6 then a.state.summary else []
  after := a.after

def State.setInHand (s : State) (h : Option InHand) : State := { s with host := { s.host with inHand := h } }

/-- The block's work is done and the reply is ready. -/
def Answer.ready (a : Answer) (code : Byte) : State := a.state.setInHand (some ⟨code, .ready (a.reply code)⟩)

/-- The code byte of a request that asks for no summary (R179). -/
def requestCode (i : Instr) : Byte := BitVec.ofNat 8 ((requestCommand i).getD 0)

/-- The frame a request arrives in. -/
def requestFrame (i : Instr) : HostFrame where
  body := requestCode i :: requestPayload i
  check := hostCheck (requestCode i :: requestPayload i)

/-- A request row: the request dispatched last is executed by its own row; with no request in hand the row is a
request taken now; else it is a frame that completes while another is in hand (R182, R183;
notes/assumptions/2.md). -/
def State.serveBy (s : State) (i : Instr) (execute : Byte → State) : State :=
  match s.host.inHand with
  | some ⟨code, .executing j⟩ =>
      if j = i then execute code
      else { s with host := s.host.complete s.engine (requestFrame i) }
  | some _ => { s with host := s.host.complete s.engine (requestFrame i) }
  | none =>
      if s.engine = .starting then
        s.setInHand (some ⟨requestCode i, .ready (bareReply (replyCode (requestCode i)) .starting)⟩)
      else execute (requestCode i)

/-- A request whose work is done and answered in its row. -/
def State.serve (s : State) (i : Instr) (work : State → Answer) : State :=
  s.serveBy i fun code => (work s).ready code

/-- A request whose moment of reply has not come: it stays in hand, to be executed by its row again. -/
def State.await (s : State) (i : Instr) : State :=
  s.serveBy i fun code => s.setInHand (some ⟨code, .executing i⟩)

/-! ### Transmitter (R184, R194) -/

/-- The notice of a kind as its sending begins (R194). -/
def State.noticeOf (s : State) (kind : Nat) : HostTx := .notice kind (tget s.alerts.subjects kind 0) s.clock

/-- An idle transmitter begins a BUSY reply owed, else the reply that is ready, else the lowest pending notice
(R184, R194). -/
def State.arbitrate (s : State) : State :=
  match s.host.tx, s.host.busy, s.host.inHand, s.alerts.firstMark with
  | some _, _, _, _ => s
  | none, code :: rest, _, _ => { s with host := { s.host with busy := rest, tx := some (.busy code) } }
  | none, [], some ⟨code, .ready r⟩, _ =>
      { s with host := { s.host with inHand := some ⟨code, .sending r⟩, tx := some .reply } }
  | none, [], _, some kind =>
      { s with
        host := { s.host with tx := some (s.noticeOf kind) }
        alerts := { s.alerts with marks := s.alerts.marks &&& ~~~(BitVec.twoPow 19 kind) } }
  | none, [], _, none => s

/-- What a reply's length byte counts (R179). -/
def Reply.body (r : Reply) : List Byte := r.code :: u8 r.status.code ++ r.payload ++ r.summary

/-- The bytes of the frame being sent (R179). -/
def HostLink.sentFrame (h : HostLink) : Option (List Byte) :=
  match h.tx, h.inHand with
  | some (.busy code), _ => some (hostFrame (bareReply (replyCode code) .busy).body)
  | some .reply, some ⟨_, .sending r⟩ => some (hostFrame r.body)
  | some (.notice kind subject minute), _ =>
      some (hostFrame ([0xFF] ++ u8 kind ++ u16 subject ++ minuteBytes minute))
  | _, _ => none

/-! ### The outcome of a command -/

/-- Every command's outcome: a powered part does its work, and an idle host transmitter then begins what is due;
an unpowered part does nothing (notes/assumptions/9.md, 11.md). -/
def State.act (s : State) (f : State → State) : Host.Outcome State Fault Refusal :=
  .next (if s.powered then (f s).arbitrate else s)

/-- The outcome of a request row. -/
def State.request (s : State) (i : Instr) (work : State → Answer) : Host.Outcome State Fault Refusal :=
  s.act fun s => s.serve i work

end Sys2Proof.Machine
end

