-- ==== Sys2Proof/Machine/LineLink.lean ====
section
/-! DEFINITION. The line link's receive side: the framer, the tests of a complete record, the intake, and the
handing on of hold answers; and the bytes of sent records (R91 to R105, R107, R109). -/

namespace Sys2Proof.Machine

/-! ### Framer (R92) -/

/-- A complete record as received (R94). -/
structure RawRecord where
  kind : Byte
  payload : List Byte
  check : BitVec 16
  deriving DecidableEq, Repr

/-- One byte in a receive state; the second component is the record it completes (R92). -/
def LineRx.step (rx : LineRx) (b : Byte) : LineRx × Option RawRecord :=
  match rx with
  | .hunting => (if b = 0x5A then .header none else .hunting, none)
  | .header none => (.header (some b), none)
  | .header (some kind) => (if b = 0 then .check kind [] none else .payload kind b.toNat [], none)
  | .payload kind n stored =>
      let stored := stored ++ [b]
      (if stored.length = n then .check kind stored none else .payload kind n stored, none)
  | .check kind body none => (.check kind body (some b), none)
  | .check kind body (some low) => (.hunting, some ⟨kind, body, checkOf low b⟩)

/-- The check of a line record (R91). -/
def lineCheck (kind : Byte) (payload : List Byte) : BitVec 16 := crc16 (kind :: u8 payload.length ++ payload)

/-- A line record as sent (R91). -/
def lineFrame (kind : Byte) (payload : List Byte) : List Byte :=
  [0x5A, kind] ++ u8 payload.length ++ payload ++ checkBytes (lineCheck kind payload)

/-- The kind that a gap's LINE_FRAME_ERROR names: none while hunting, 256 before the kind byte (R93). -/
def LineRx.gapSubject : LineRx → Option Nat
  | .hunting => none
  | .header none => some 256
  | .header (some kind) => some kind.toNat
  | .payload kind _ _ => some kind.toNat
  | .check kind _ _ => some kind.toNat

/-! ### Judging (R94, R95, R97) -/

/-- A well-formed record: one for the intake, or a hold answer (R98). -/
inductive Inbound where
  | queued (record : LineRecord)
  | answer (tag transport : Nat) (granted : Bool)
  deriving DecidableEq, Repr

def modeOf? (n : Nat) : Option LineMode :=
  match n with
  | 0 => some .idle
  | 1 => some .sort
  | 2 => some .test
  | 3 => some .jog
  | 4 => some .purge
  | _ => none

/-- The payload lengths of the inbound kinds (R97); none for every other kind. -/
def inboundLength (kind : Byte) : Option Nat :=
  if kind = 0x11 then some 10
  else if kind = 0x12 then some 1
  else if kind = 0x13 then some 6
  else if kind = 0x14 then some 2
  else if kind = 0x15 then some 3
  else none

def itemOf? (p : List Byte) : Option Inbound :=
  if u16At p 4 ≤ 4095 && byteAt p 6 ≤ 3 && 40 ≤ u16At p 7 && u16At p 7 ≤ 600 && byteAt p 9 < 4 then
    some (.queued (.item
      { serial := u32At p 0, destination := u16At p 4, thickness := byteAt p 6, length := u16At p 7,
        reject := (p.getD 9 0).getLsbD 0, recirculated := (p.getD 9 0).getLsbD 1 }))
  else none

def tachOf? (p : List Byte) : Option Inbound :=
  match boolOf? (byteAt p 5) with
  | some valid =>
      if byteAt p 0 ≤ 31 then some (.queued (.tach (byteAt p 0) (u16At p 1) (u16At p 3) valid)) else none
  | none => none

def jamOf? (p : List Byte) : Option Inbound :=
  if byteAt p 0 ≤ 31 && 1 ≤ byteAt p 1 && byteAt p 1 ≤ 3 then some (.queued (.jam (byteAt p 0) (byteAt p 1)))
  else none

def answerOf? (p : List Byte) : Option Inbound :=
  if byteAt p 0 ≤ 3 && byteAt p 1 ≤ 31 && 1 ≤ byteAt p 2 && byteAt p 2 ≤ 2 then
    some (.answer (byteAt p 0) (byteAt p 1) (byteAt p 2 == 1))
  else none

/-- The fields of a payload of the kind's length, if every one is in range (R95). -/
def fieldsOf? (kind : Byte) (p : List Byte) : Option Inbound :=
  if kind = 0x11 then itemOf? p
  else if kind = 0x12 then (modeOf? (byteAt p 0)).map fun m => .queued (.mode m)
  else if kind = 0x13 then tachOf? p
  else if kind = 0x14 then jamOf? p
  else if kind = 0x15 then answerOf? p
  else none

/-- The four tests of R94; none where one fails. -/
def RawRecord.judged (r : RawRecord) : Option Inbound :=
  if lineCheck r.kind r.payload = r.check ∧ inboundLength r.kind = some r.payload.length then
    fieldsOf? r.kind r.payload
  else none

/-! ### Intake (R99, R100) -/

def LineRecord.kindCode : LineRecord → Nat
  | .item _ => 0x11
  | .mode _ => 0x12
  | .tach _ _ _ _ => 0x13
  | .jam _ _ => 0x14

/-- R97. -/
def LineRecord.footprint : LineRecord → Nat
  | .item _ => 12
  | .mode _ => 3
  | .tach _ _ _ _ => 8
  | .jam _ _ => 4

def LineRecord.isItem : LineRecord → Bool
  | .item _ => true
  | .mode _ | .tach _ _ _ _ | .jam _ _ => false

/-- Bytes used (R99). -/
def LineReceiver.used (l : LineReceiver) : Nat := (l.intake.map LineRecord.footprint).sum

/-- The count of one kind (R99). -/
def LineReceiver.countOf (l : LineReceiver) (code : Nat) : Nat :=
  l.intake.countP fun r => r.kindCode == code

/-- The number of ITEM records in the intake (R45, R99). -/
def LineReceiver.items (l : LineReceiver) : Nat := l.intake.countP LineRecord.isItem

/-- The intake's size in bytes (R99). -/
abbrev intakeSize : Nat := 2048

/-- The overrun counter of a record's kind rises (R100). -/
def LineReceiver.overrun (l : LineReceiver) : LineRecord → LineReceiver
  | .item _ => { l with itemOverrun := l.itemOverrun + 1 }
  | .mode _ => { l with modeOverrun := l.modeOverrun + 1 }
  | .tach _ _ _ _ => { l with tachOverrun := l.tachOverrun + 1 }
  | .jam _ _ => { l with jamOverrun := l.jamOverrun + 1 }

/-- The item counters at the arrival of a record; `lost` says it was lost to overrun (R45, R103). -/
def WearEngine.arrival (w : WearEngine) (r : LineRecord) (lost : Bool) : WearEngine :=
  if r.isItem then
    { w with received := w.received + 1, lost := if lost then w.lost + 1 else w.lost }
  else w

/-- A record is offered to the intake (R100, R103). -/
def State.offer (s : State) (r : LineRecord) : State :=
  if s.line.used + r.footprint ≤ intakeSize then
    { s with
      line := { s.line with intake := s.line.intake ++ [r] }
      wear := s.wear.arrival r false }
  else
    { s with
      line := s.line.overrun r
      wear := s.wear.arrival r true
      alerts := s.alerts.take (.raised .intakeOverrun r.kindCode) }

/-- A stray answer is counted (R105, R109). -/
def State.countStray (s : State) : State := { s with line := { s.line with strays := s.line.strays + 1 } }

/-- A hold answer reaches the hold unit (R105, R117). -/
def State.takeAnswer (s : State) (tag t : Nat) (granted : Bool) : State :=
  match s.hold.answer s.arbiterOn s.options.deferral tag t granted with
  | some r => { s with hold := r.1, alerts := s.alerts.takeAll r.2 }
  | none => s.countStray

/-- A well-formed record is discarded in STARTING (R103, R104). -/
def State.discardStarting (s : State) : Inbound → State
  | .queued r =>
      if r.isItem then
        { s with wear := { s.wear with received := s.wear.received + 1, notCounted := s.wear.notCounted + 1 } }
      else s
  | .answer _ _ _ => s.countStray

/-- A well-formed record is passed on (R98). -/
def State.passOn (s : State) (r : Inbound) : State :=
  if s.engine = .starting then s.discardStarting r
  else
    match r with
    | .queued record => s.offer record
    | .answer tag t granted => s.takeAnswer tag t granted

/-- A line error is counted and reported (R93, R94). -/
def State.lineError (s : State) (subject : Nat) : State :=
  { s with
    line := { s.line with errors := s.line.errors + 1 }
    alerts := s.alerts.take (.raised .lineFrameError subject) }

/-- A complete record is judged and passed on, or discarded (R94). -/
def State.recordArrives (s : State) (r : RawRecord) : State :=
  match r.judged with
  | some inbound => s.passOn inbound
  | none => s.lineError r.kind.toNat

def State.setLineRx (s : State) (rx : LineRx) : State := { s with line := { s.line with rx := rx } }

/-- One byte received on the line link (R92). -/
def State.lineByte (s : State) (b : Byte) : State :=
  let stepped := s.line.rx.step b
  match stepped.2 with
  | some r => (s.setLineRx stepped.1).recordArrives r
  | none => s.setLineRx stepped.1

def State.lineBytes (s : State) (bytes : List Byte) : State := bytes.foldl State.lineByte s

/-- A record is abandoned after a gap (R93); while hunting there is none. -/
def State.lineGap (s : State) : State :=
  match s.line.rx.gapSubject with
  | some subject => (s.setLineRx .hunting).lineError subject
  | none => s

/-! ### Sending (R97, R107) -/

/-- The frame of a transmit list entry (R91, R97). -/
def TxEntry.frame : TxEntry → List Byte
  | .request slot t => lineFrame 0x21 (u8 slot ++ u8 t)
  | .release t => lineFrame 0x22 (u8 t)

/-- The bytes of the record being sent. -/
def HoldUnit.sentFrame (h : HoldUnit) : Option (List Byte) :=
  match h.sending, h.transmit with
  | true, e :: _ => some e.frame
  | _, _ => none

end Sys2Proof.Machine
end

