-- ==== Sys2Proof/Machine/Power.lean ====
section
/-! DEFINITION. Power and start-up: POWER_ON, RESET_PIN, POWER_LOSS, STARTUP_END (R173 to R178, R195). -/

namespace Sys2Proof.Machine

/-- What a reset-pin start-up finds in the store: a record write in progress completes, at once (DESIGN CHOICE,
notes/assumptions/23.md); where an erase runs, the erase of the slot in progress completes and the erase ends
(R176, R178). -/
def State.storeAtReset (s : State) (erased : Nat) : Store :=
  if s.ckpt.erasing then s.store.erasedTo erased else s.committedStore

/-- What a loss of power leaves of a running erase (R178). -/
def State.storeCutErasing (s : State) (erased : Nat) (torn : Bool) : Store :=
  if torn then (s.store.erasedTo erased).tornAt erased else s.store.erasedTo erased

/-- What a loss of power leaves in the store (R176, R178). -/
def State.storeAtLoss (s : State) (tear : Tear) (erased : Nat) (torn : Bool) : Store :=
  if s.ckpt.erasing then s.storeCutErasing erased torn else s.cutStore tear

/-- POWER_ON: a start-up begins (R173). -/
def execPowerOn (s : State) : Host.Outcome State Fault Refusal :=
  .next (s.beginStartup s.committedStore false).arbitrate

/-- RESET_PIN: a start-up begins (R173, R176, R178, R195). -/
def execResetPin (erased : Nat) (s : State) : Host.Outcome State Fault Refusal :=
  s.act fun s => s.beginStartup (s.storeAtReset erased) false

/-- POWER_LOSS: the store is all that stays (R176, R178; notes/assumptions/9.md). -/
def execPowerLoss (tear : Tear) (erased : Nat) (eraseTorn : Bool) (s : State) :
    Host.Outcome State Fault Refusal :=
  .next (if s.powered then
      { s.beginStartup (s.storeAtLoss tear erased eraseTorn) false with powered := false }
    else s)

/-- The start-up to its end, or, where other events come between, its restore (R173, R175). -/
def State.takeStartup (s : State) (acts : Option Nat) : State :=
  match acts with
  | none => s.endStartup
  | some _ => s.restore

/-- STARTUP_END (R173, R175; notes/assumptions/8.md). -/
def execStartupEnd (s : State) : Host.Outcome State Fault Refusal :=
  s.act fun s => if s.engine = .starting then s.cutTaken.takeStartup s.cut else s

end Sys2Proof.Machine
end

