-- ==== Sys2Proof/Machine/LineEvents.lean ====
section
/-! DEFINITION. Events of the line link and the wear engine: LINE_BYTE_RECEIVED, LINE_RECORD_ARRIVAL,
LINE_RECORD_ABANDONED, LINE_TX_SENT, TAKE_RECORD, HOLD_TIMER_EXPIRY (R27, R92 to R94, R107, R119, R122). -/

namespace Sys2Proof.Machine

/-- LINE_BYTE_RECEIVED (R92). -/
def execLineByteReceived (byte : Byte) (s : State) : Host.Outcome State Fault Refusal :=
  s.act fun s => s.lineByte byte

/-- LINE_RECORD_ARRIVAL: the rest of a record's bytes, its second check byte the last of them (R92, R94;
notes/assumptions/6.md). -/
def execLineRecordArrival (bytes : List Byte) (s : State) : Host.Outcome State Fault Refusal :=
  s.act fun s => s.lineBytes bytes

/-- LINE_RECORD_ABANDONED (R93). -/
def execLineRecordAbandoned (s : State) : Host.Outcome State Fault Refusal :=
  s.act State.lineGap

/-- The record in work goes on; with none, the head record leaves the intake and its work begins, unless the engine
state is STARTING (R27, R28, R101). -/
def State.takeRecord (s : State) : State :=
  match s.engine, s.wear.work, s.line.intake with
  | .starting, _, _ => s
  | _, some _, _ => s.cutTaken.goOn (s.actsAllowed s.cut)
  | _, none, r :: rest =>
      { s.cutTaken with line := { s.line with intake := rest } }.beginRecord (s.actsAllowed s.cut) r
  | _, none, [] => s

/-- TAKE_RECORD (R27, R28; notes/assumptions/4.md). -/
def execTakeRecord (s : State) : Host.Outcome State Fault Refusal :=
  s.act State.takeRecord

/-- LINE_TX_SENT (R107, R116). -/
def execLineTxSent (s : State) : Host.Outcome State Fault Refusal :=
  s.act fun s => { s with hold := s.hold.headSent s.options.answerTimeout }

/-- The running timer of a slot runs out (R119, R122). -/
def State.expireSlot (s : State) (slot : Nat) : State :=
  let expired := s.hold.expire s.arbiterOn s.options.deferral slot
  { s with hold := expired.1, alerts := s.alerts.takeAll expired.2 }

/-- HOLD_TIMER_EXPIRY (R119, R122). -/
def execHoldTimerExpiry (slot : Nat) (s : State) : Host.Outcome State Fault Refusal :=
  s.act fun s => s.expireSlot slot

end Sys2Proof.Machine
end

