-- ==== Sys2Proof/Machine/TimeEvents.lean ====
section
/-! DEFINITION. The minute tick and what it delivers: MINUTE_TICK, DEFERRAL_END, WINDOW_EXPIRY,
INTERVAL_BOUNDARY (R87, R88, R120, R128 to R137, R145; notes/assumptions/5.md). -/

namespace Sys2Proof.Machine

/-- The minute to which a tick advances the clock (R128, R131). -/
def advancedClock (clock : Option Nat) : Option Nat :=
  match clock with
  | some c => if maxMinute ≤ c then none else some (c + 1)
  | none => none

/-- CLOCK_UNSET starts where a tick passes the last minute (R131). -/
def clockAlerts (before after : Option Nat) : List AlertEvent :=
  match before, after with
  | some _, none => [.conditionSet .clockUnset 0 true]
  | some _, some _ => []
  | none, _ => []

/-- The plan unit takes the tick it has not yet taken (R145). -/
def State.deliverPlanTick (s : State) : State :=
  match s.timer.planTick with
  | some carried => { s with timer := { s.timer with planTick := none } }.takePlan (s.plan.tick carried)
  | none => s

/-- The hold unit takes the tick it has not yet taken (R120). -/
def State.deliverHoldTick (s : State) : State :=
  if s.timer.holdTick then
    { s with
      timer := { s.timer with holdTick := false }
      hold := s.hold.tick s.arbiterOn s.wish }
  else s

/-- Roll complete: the plan unit replans, and the checkpoint unit starts an automatic checkpoint where its
conditions hold (R137, R148, R170). Both fall in one act with the roll's last examination, so that no other event
comes between, DESIGN CHOICE (notes/assumptions/24.md). -/
def State.rollComplete (s : State) : State :=
  if s.engine == .counting && s.options.autoSave then s.replan.triggerCheckpoint else s.replan

/-- The boundary reaches the transport monitor, which takes its snapshot (R88). -/
def State.deliverSnapshot (s : State) : State :=
  if s.timer.snapshot then { s with timer := { s.timer with snapshot := false } }.closeIntervals else s

def State.setBoundary (s : State) (b : Option BoundaryMark) : State :=
  { s with timer := { s.timer with boundary := b } }

/-- The roll examines the next `examined` elements, all that are left where none is given; after the last it is
complete (R135 to R137). -/
def State.rollOn (s : State) (carried : Option Nat) (next : Nat) (examined : Option Nat) : State :=
  let count := examined.getD 240
  let rolled : State :=
    { s with elements := rollTable s.options.intervalLength carried next count s.elements }
  if next + count < 240 then rolled.setBoundary (some ⟨carried, .rolling (next + count)⟩)
  else (rolled.setBoundary none).rollComplete

/-- The boundary reaches the element table: the run charges of its tick come first, a record that has been charged
is waited for, and then the roll begins; a roll in progress goes on (R28, R40, R136). -/
def State.deliverRoll (s : State) (examined : Option Nat) : State :=
  match s.timer.boundary with
  | some ⟨carried, .rolling next⟩ => s.rollOn carried next examined
  | some ⟨carried, .due⟩ | some ⟨carried, .waits⟩ =>
      let charged := s.runOn none
      if charged.recordCharged then charged.setBoundary (some ⟨carried, .waits⟩)
      else charged.rollOn carried 0 examined
  | none => s

/-- The boundary, if any, is taken to its end at both blocks: a record that the roll waits for is finished, and the
roll is completed. -/
def State.finishBoundary (s : State) : State :=
  match s.timer.boundary with
  | some ⟨_, .rolling _⟩ => s.deliverSnapshot.deliverRoll none
  | some ⟨_, .due⟩ | some ⟨_, .waits⟩ =>
      let charged := s.deliverSnapshot.runOn none
      (if charged.recordCharged then charged.goOn none else charged).deliverRoll none
  | none => s.deliverSnapshot

/-- What the last tick left to do is done before a new tick (R128, R136). -/
def State.finishTick (s : State) : State := s.deliverPlanTick.deliverHoldTick.finishBoundary

/-- The timer and the clock at a tick, and what the element table and the transport monitor then have to do
(R39, R129, R131). -/
def State.countTick (s : State) : State :=
  let carried := advancedClock s.clock
  let ends : Bool := s.options.intervalLength ≤ s.timer.intervalCount + 1
  { s with
    clock := carried
    timer := { s.timer with
      intervalCount := if ends then 0 else s.timer.intervalCount + 1
      runs := if s.engine == .counting then some ⟨carried, 0⟩ else none
      boundary := if ends then some ⟨carried, .due⟩ else none
      snapshot := ends }
    alerts := s.alerts.takeAll (clockAlerts s.clock carried) }

/-- The tick at the hold unit: where a countdown ends, DEFERRAL_END takes it (R120). -/
def State.tickHolds (s : State) : State :=
  if s.hold.tickEnds then { s with timer := { s.timer with holdTick := true } }
  else { s with hold := s.hold.countDown }

/-- The tick at the plan unit: where a window has ended, WINDOW_EXPIRY takes it (R145). -/
def State.tickPlan (s : State) (carried : Option Nat) : State :=
  match carried with
  | some c =>
      if s.plan.someEnded c then { s with timer := { s.timer with planTick := some carried } }
      else s.takePlan (s.plan.tick carried)
  | none => s.takePlan (s.plan.tick none)

/-- One tick at the five blocks (R39, R87, R120, R128, R145), of whose run charges the first `examined` elements are
examined at once. -/
def State.minuteTick (s : State) (examined : Option Nat) : State :=
  let counted := s.finishTick.countTick
  (((counted.runOn examined).onTransports Transport.countMinute).tickHolds).tickPlan counted.clock

/-- The run charges of the last tick go on where some are left; else a tick comes (R40, R128). -/
def State.takeTick (s : State) (examined : Option Nat) : State :=
  match s.timer.runs with
  | some _ => s.runOn examined
  | none => s.minuteTick examined

/-- MINUTE_TICK (R40, R128; notes/assumptions/4.md); a stopped timer gives none. -/
def execMinuteTick (s : State) : Host.Outcome State Fault Refusal :=
  s.act fun s => if s.timer.running then s.cutTaken.takeTick s.cut else s

/-- DEFERRAL_END (R120). -/
def execDeferralEnd (s : State) : Host.Outcome State Fault Refusal := s.act State.deliverHoldTick

/-- WINDOW_EXPIRY (R145). -/
def execWindowExpiry (s : State) : Host.Outcome State Fault Refusal := s.act State.deliverPlanTick

/-- The boundary at the two blocks, to which no order is given (R38, R128): at both; after no act, at the transport
monitor alone; after n + 1, at the element table alone, whose roll examines n elements before other events come
between. -/
def State.takeBoundary (s : State) : State :=
  if s.timer.boundary.isNone && !s.timer.snapshot then s
  else
    match s.cut with
    | none => s.cutTaken.deliverSnapshot.deliverRoll none
    | some 0 => s.cutTaken.deliverSnapshot
    | some (n + 1) => s.cutTaken.deliverRoll (some n)

/-- INTERVAL_BOUNDARY (R38, R88, R129, R135 to R137; notes/assumptions/4.md). -/
def execIntervalBoundary (s : State) : Host.Outcome State Fault Refusal := s.act State.takeBoundary

end Sys2Proof.Machine
end

