-- ==== Sys2Proof/Machine/HostEvents.lean ====
section
/-! DEFINITION. Events of the host link: HOST_BYTE_RECEIVED, HOST_FRAME_COMPLETE, HOST_FRAME_ABANDONED,
BUSY_REPLY_SENT, NOTICE_SENT, and the end of a reply (R181, R183, R184, R194). -/

namespace Sys2Proof.Machine

/-- HOST_BYTE_RECEIVED (R181). -/
def execHostByteReceived (byte : Byte) (s : State) : Host.Outcome State Fault Refusal :=
  s.act fun s => s.hostReceive [byte]

/-- HOST_FRAME_COMPLETE: the rest of a frame's bytes, its second check byte the last of them (R183;
notes/assumptions/6.md). -/
def execHostFrameComplete (bytes : List Byte) (s : State) : Host.Outcome State Fault Refusal :=
  s.act fun s => s.hostReceive bytes

/-- HOST_FRAME_ABANDONED (R181). -/
def execHostFrameAbandoned (s : State) : Host.Outcome State Fault Refusal :=
  s.act fun s => { s with host := { s.host with rx := .hunting } }

/-- The request in hand ends with its reply's last byte; a RESTART or WIPE then begins its start-up, else a held
frame is taken (R177, R178, R183). A record write then in progress completes at once, DESIGN CHOICE
(notes/assumptions/23.md). -/
def State.replySent (s : State) : State :=
  match s.host.tx, s.host.inHand with
  | some .reply, some ⟨_, .sending r⟩ =>
      match r.after with
      | .nothing => { s with host := s.host.finish s.engine }
      | .restart => s.beginStartup s.committedStore false
      | .wipe => s.beginStartup s.committedStore true
  | _, _ => s

/-- The transmitter is idle again after a BUSY reply (R183, R184). -/
def State.busySent (s : State) : State :=
  match s.host.tx with
  | some (.busy _) => { s with host := { s.host with tx := none } }
  | some .reply => s
  | some (.notice _ _ _) => s
  | none => s

/-- BUSY_REPLY_SENT (R183). -/
def execBusyReplySent (s : State) : Host.Outcome State Fault Refusal := s.act State.busySent

/-- The transmitter is idle again after a notice (R194). -/
def State.noticeSent (s : State) : State :=
  match s.host.tx with
  | some (.notice _ _ _) => { s with host := { s.host with tx := none } }
  | some .reply => s
  | some (.busy _) => s
  | none => s

/-- NOTICE_SENT (R194). -/
def execNoticeSent (s : State) : Host.Outcome State Fault Refusal := s.act State.noticeSent

end Sys2Proof.Machine
end

