-- ==== Sys2Proof/Machine/PartRequests.lean ====
section
/-! DEFINITION. Requests on the part: STATUS, SET CLOCK, START, STOP, RESTART, WIPE, SET OPTIONS, READ OPTIONS,
CLEAR COUNTS (R132, R133, R177, R178, R186 to R189). -/

namespace Sys2Proof.Machine

/-! ### STATUS -/

/-- R109, R141, R187: the fields in their order. -/
def State.statusBytes (s : State) : List Byte :=
  u8 s.engine.code ++ u8 s.wear.mode.code ++ minuteBytes s.clock ++ u8 s.options.intervalLength ++
  u8 s.timer.intervalCount ++ u16 s.line.used ++ u16 s.line.intake.length ++ u8 (s.line.countOf 0x11) ++
  u16 (s.line.countOf 0x12) ++ u16 (s.line.countOf 0x13) ++ u16 (s.line.countOf 0x14) ++
  u32 s.line.errors.toNat ++ u32 s.line.itemOverrun.toNat ++ u32 s.line.modeOverrun.toNat ++
  u32 s.line.tachOverrun.toNat ++ u32 s.line.jamOverrun.toNat ++ u32 s.line.strays.toNat ++
  u8 s.hold.transmit.length ++ u32 s.alerts.latched.toNat

/-- STATUS (R187). -/
def execStatus (s : State) : Host.Outcome State Fault Refusal :=
  s.request .status fun s => accept s s.statusBytes

/-! ### SET CLOCK -/

/-- The clock takes a value; CLOCK_UNSET ends where it was unset (R131, R132). -/
def State.putClock (s : State) (value : Nat) : State :=
  { s with
    clock := some value
    alerts := s.alerts.takeAll (if s.clock.isNone then [.conditionEnded .clockUnset] else []) }

/-- The plan unit's part of an accepted SET CLOCK (R133, R149). -/
def State.moveClock (s : State) (value : Nat) : State :=
  let set := s.putClock value
  { set with plan := set.plan.dropEnded value }.replan

/-- R132, R133. That the value is tested before the state is a DESIGN CHOICE (notes/assumptions/21.md). -/
def setClockWork (value : Nat) (s : State) : Answer :=
  if maxMinute < value then refuse s .badValue
  else if s.clock.isSome && s.engine == .counting then refuse s .wrongState
  else accept (s.moveClock value) (u32 value)

/-- SET CLOCK (R132). -/
def execSetClock (value : Nat) (s : State) : Host.Outcome State Fault Refusal :=
  s.request (.setClock value) (setClockWork value)

/-! ### START and STOP -/

/-- R186. -/
def startWork (s : State) : Answer :=
  if s.engine == .counting then refuse s .wrongState
  else if s.anySuspect then refuse s .elementState
  else accept { s with engine := .counting } []

/-- START (R186). -/
def execStart (s : State) : Host.Outcome State Fault Refusal := s.request .start startWork

/-- R186, R170. -/
def stopWork (s : State) : Answer :=
  if s.engine == .counting then accept { s with engine := .stopped }.triggerCheckpoint []
  else refuse s .wrongState

/-- STOP (R186). -/
def execStop (s : State) : Host.Outcome State Fault Refusal := s.request .stop stopWork

/-! ### RESTART and WIPE -/

/-- RESTART: the start-up begins once the reply has been sent (R177). -/
def execRestart (s : State) : Host.Outcome State Fault Refusal :=
  s.request .restart fun s => ⟨s, .ok, [], .restart⟩

/-- R178. -/
def wipeWork (s : State) : Answer :=
  if s.engine == .stopped then ⟨s, .started, [], .wipe⟩ else refuse s .wrongState

/-- WIPE (R178). -/
def execWipe (s : State) : Host.Outcome State Fault Refusal := s.request .wipe wipeWork

/-! ### Options -/

/-- The interval restart (R130): a boundary not yet rolled is rolled first (R136; notes/assumptions/5.md). -/
def State.restartIntervals (s : State) : State :=
  let rolled := s.finishBoundary
  { rolled with
    timer := { rolled.timer with intervalCount := 0 }
    elements := restartTable rolled.elements }

/-- An accepted SET OPTIONS (R188, R130). -/
def State.putOptions (s : State) (o : Options) : State :=
  if o.intervalLength = s.options.intervalLength then { s with options := o }
  else { s.restartIntervals with options := o }

/-- R188. -/
def setOptionsWork (fields : OptionFields) (s : State) : Answer :=
  match optionsOf? fields with
  | none => refuse s .badValue
  | some o =>
      if o.intervalLength ≠ s.options.intervalLength ∧ s.engine ≠ .stopped then refuse s .wrongState
      else accept (s.putOptions o) []

/-- SET OPTIONS (R188). -/
def execSetOptions (fields : OptionFields) (s : State) : Host.Outcome State Fault Refusal :=
  s.request (.setOptions fields) (setOptionsWork fields)

/-- The options as a reply carries them (R188). -/
def Options.bytes (o : Options) : List Byte :=
  u8 o.intervalLength ++ u16 o.horizon ++ u8 o.companionPercent ++ u16 o.slipLimit ++ u8 o.slipSetCount ++
  u8 o.slipClearCount ++ u8 o.slipFactor ++ u16 o.minimumDrive ++ u16 o.answerTimeout ++ u8 o.deferral ++
  flag o.autoSave

/-- READ OPTIONS (R188). -/
def execReadOptions (s : State) : Host.Outcome State Fault Refusal :=
  s.request .readOptions fun s => accept s (s.options.bytes ++ u32 s.alerts.mask.toNat)

/-! ### Counts -/

/-- The item counters after a clear (R46). -/
def State.clearedItems (s : State) : WearEngine :=
  { s.wear with received := BitVec.ofNat 32 s.line.items, counted := 0, notCounted := 0, lost := 0 }

/-- The line receiver's counters after a clear (R189). -/
def LineReceiver.clearCounts (l : LineReceiver) : LineReceiver :=
  { l with errors := 0, itemOverrun := 0, modeOverrun := 0, tachOverrun := 0, jamOverrun := 0, strays := 0 }

/-- R189. -/
def State.clearAllCounts (s : State) : State :=
  { s with wear := s.clearedItems, routes := s.routes.clearCounts, line := s.line.clearCounts }

/-- CLEAR COUNTS (R189). -/
def execClearCounts (s : State) : Host.Outcome State Fault Refusal :=
  s.request .clearCounts fun s => accept s.clearAllCounts []

end Sys2Proof.Machine
end

