-- ==== Sys2Proof/Machine/ElementRequests.lean ====
section
/-! DEFINITION. Requests on elements: ASSIGN, REPLACE, RETIRE ELEMENT, SET THRESHOLDS, SET WEIGHTS, READ and LIST
ELEMENTS (R12 to R24). -/

namespace Sys2Proof.Machine

/-- The largest element index (R1). -/
abbrev lastElement : Nat := 239

/-! ### ASSIGN -/

/-- R13: the state an assigned element enters. -/
def Settings.entryState (v : Settings) (accumulator : Nat) : AssignedState :=
  if 0 < v.quota && accumulator < v.advisory then .breakIn
  else thresholdState accumulator v.advisory v.due v.limit

/-- The record ASSIGN writes, before R14 (R13). -/
def Settings.fitted (v : Settings) (accumulator : Nat) : Fitting where
  settings := v
  state := v.entryState accumulator
  accumulator := accumulator
  breakInRemaining := if v.entryState accumulator = .breakIn then v.quota else 0
  passages := 0
  runMinutes := 0
  history := noHistory
  intervals := 0
  milestones := .clear
  waived := false
  intervalWear := 0
  projection := .unknown

/-- A fitting of a position: its generation rises and the wear engine gets its notice (R4, R49). -/
def State.fit (s : State) (i : Nat) (f : Fitting) : State :=
  { s with
    elements := tset s.elements i ⟨(s.element i).generation + 1, .assigned f⟩
    wear := s.wear.fittingNotice i }

/-- An accepted ASSIGN (R13, R14). -/
def State.assign (s : State) (i : Nat) (v : Settings) (accumulator : Nat) : State :=
  let f := v.fitted accumulator
  (s.fit i f).handOff ⟨i, .assign, s.clock⟩
    (f.settle f.state.reachedAdvisory false s.options.intervalLength s.clock)

/-- R12: index, then state, then values. -/
def assignElementWork (index : Nat) (fields : SettingFields) (accumulator : Nat) (s : State) : Answer :=
  if lastElement < index then refuse s .badValue
  else if (s.fitting? index).isSome then refuse s .elementState
  else
    match settingsOf? fields with
    | none => refuse s .badValue
    | some v =>
        accept (s.assign index v accumulator)
          (u8 index ++ u8 (v.entryState accumulator).code ++ u16 ((s.element index).generation + 1).toNat)

/-- ASSIGN ELEMENT (R12). -/
def execAssignElement (index : Nat) (fields : SettingFields) (accumulator : Nat) (s : State) :
    Host.Outcome State Fault Refusal :=
  s.request (.assignElement index fields accumulator) (assignElementWork index fields accumulator)

/-! ### REPLACE and RETIRE -/

/-- R15. -/
def Fitting.replaced (f : Fitting) : Fitting :=
  { f with
    state := if 0 < f.settings.quota then .breakIn else .service
    accumulator := 0
    breakInRemaining := f.settings.quota
    passages := 0
    runMinutes := 0
    history := noHistory
    intervals := 0
    milestones := .clear
    waived := false
    intervalWear := 0
    projection := .unknown }

/-- The element's plan entry leaves the plan (R157). -/
def State.dropEntry (s : State) (i : Nat) : State := s.takePlan (s.plan.removalNotice i)

/-- R15. -/
def State.replace (s : State) (i : Nat) (f : Fitting) : State :=
  ((s.fit i f.replaced).dropEntry i).reevaluate f.settings.transport

def replaceElementWork (index : Nat) (s : State) : Answer :=
  if lastElement < index then refuse s .badValue
  else
    match s.fitting? index with
    | none => refuse s .elementState
    | some f =>
        accept (s.replace index f)
          (u8 index ++ u8 f.replaced.state.code ++ u16 ((s.element index).generation + 1).toNat)

/-- REPLACE ELEMENT (R15). -/
def execReplaceElement (index : Nat) (s : State) : Host.Outcome State Fault Refusal :=
  s.request (.replaceElement index) (replaceElementWork index)

/-- A position is emptied, its generation kept, and the wear engine gets its notice (R17). -/
def State.vacate (s : State) (i : Nat) : State :=
  { s with
    elements := tset s.elements i ⟨(s.element i).generation, .vacant⟩
    wear := s.wear.fittingNotice i }

/-- R17. -/
def retireElementWork (index : Nat) (s : State) : Answer :=
  let reply := u8 index ++ u16 (s.element index).generation.toNat
  if lastElement < index then refuse s .badValue
  else
    match (s.element index).position with
    | .vacant => refuse s .elementState
    | .suspect => accept (s.vacate index) reply
    | .assigned f => accept (((s.vacate index).dropEntry index).reevaluate f.settings.transport) reply

/-- RETIRE ELEMENT (R17). -/
def execRetireElement (index : Nat) (s : State) : Host.Outcome State Fault Refusal :=
  s.request (.retireElement index) (retireElementWork index)

/-! ### SET THRESHOLDS -/

/-- The record with new thresholds: the state of R19, and the flags R20 clears. -/
def Fitting.rethresholded (f : Fitting) (advisory due limit : Nat) : Fitting :=
  let g : Fitting := { f with settings := { f.settings with advisory, due, limit } }
  let stays : Bool := f.state == .breakIn && f.accumulator < advisory
  { g with
    state := if stays then .breakIn else g.thresholdState
    breakInRemaining := if stays then f.breakInRemaining else 0
    milestones := g.clearedFlags }

/-- The evaluation of an accepted SET THRESHOLDS (R19, R20): the projection is recomputed in every case. -/
def State.thresholdEvaluation (s : State) (f : Fitting) (advisory due limit : Nat) : Evaluation :=
  let g := f.rethresholded advisory due limit
  g.settle (g.state != f.state) true s.options.intervalLength s.clock

def setThresholdsWork (index advisory due limit : Nat) (s : State) : Answer :=
  if lastElement < index then refuse s .badValue
  else
    match s.fitting? index with
    | none => refuse s .elementState
    | some f =>
        if f.state = .limit then refuse s .elementState
        else if thresholdsOk advisory due limit then
          let ev := s.thresholdEvaluation f advisory due limit
          accept (s.handOff ⟨index, .setting, s.clock⟩ ev)
            (u8 index ++ u8 ev.fitting.state.code ++ ev.fitting.projection.bytes)
        else refuse s .badValue

/-- SET THRESHOLDS (R19). -/
def execSetThresholds (index advisory due limit : Nat) (s : State) : Host.Outcome State Fault Refusal :=
  s.request (.setThresholds index advisory due limit) (setThresholdsWork index advisory due limit)

/-! ### SET WEIGHTS -/

/-- The cost notice of a changed service cost (R22). -/
def State.recost (s : State) (i : Nat) (old new : Nat) : State :=
  if old = new then s else s.takePlan (s.plan.costNotice i new)

/-- An accepted SET WEIGHTS (R21, R22). -/
def State.reweigh (s : State) (i : Nat) (f : Fitting) (v : Settings) : State :=
  ((s.setFitting i { f with settings := v }).recost i f.settings.cost v.cost).reevaluate f.settings.transport

def setWeightsWork (index : Nat) (fields : WeightFields) (s : State) : Answer :=
  if lastElement < index then refuse s .badValue
  else
    match s.fitting? index with
    | none => refuse s .elementState
    | some f =>
        match weightsOf? fields f.settings with
        | none => refuse s .badValue
        | some v => accept (s.reweigh index f v) (u8 index)

/-- SET WEIGHTS (R21). -/
def execSetWeights (index : Nat) (fields : WeightFields) (s : State) : Host.Outcome State Fault Refusal :=
  s.request (.setWeights index fields) (setWeightsWork index fields)

/-! ### READ and LIST -/

/-- The settings in the order of R1. -/
def Settings.bytes (v : Settings) : List Byte :=
  u8 v.kind.code ++ u8 v.transport ++ labelReply v.label ++ weightBytes v.weights ++ u8 v.runWeight ++
  u16 v.jamWeight ++ [v.modeSet] ++ u32 v.advisory ++ u32 v.due ++ u32 v.limit ++ u16 v.quota ++
  indexOrNone v.group ++ u8 v.cost ++ u8 v.policy.code

/-- The settings, the counts and the reported fields, in the order of R23. -/
def Fitting.bytes (f : Fitting) : List Byte :=
  f.settings.bytes ++ u32 f.accumulator ++ u16 f.breakInRemaining ++ u32 f.passages ++ u32 f.runMinutes ++
  u32 f.intervalWear ++ u8 f.intervals ++ f.history.flatMap u16 ++ f.milestones.bytes ++ flag f.waived ++
  f.projection.bytes

/-- R23. -/
def elementBytes (index : Nat) (e : Element) : List Byte :=
  u8 index ++ u8 e.stateCode ++ u16 e.generation.toNat ++
    (match e.fitting? with | some f => f.bytes | none => [])

/-- READ ELEMENT (R23). -/
def execReadElement (index : Nat) (s : State) : Host.Outcome State Fault Refusal :=
  s.request (.readElement index) fun s =>
    if lastElement < index then refuse s .badValue else accept s (elementBytes index (s.element index))

/-- R24; a state filter with bit 7 selects no states of R180 (notes/assumptions/15.md). -/
def listOk (first : Nat) (stateFilter : BitVec 8) (transportFilter : Nat) : Bool :=
  first ≤ lastElement && stateFilter != 0 && !stateFilter.msb && (transportFilter ≤ 31 || transportFilter == 255)

/-- R24. -/
def Element.listed (e : Element) (stateFilter : BitVec 8) (transportFilter : Nat) : Bool :=
  stateFilter.getLsbD e.stateCode &&
  (transportFilter == 255 ||
    match e.fitting? with
    | some f => f.settings.transport == transportFilter
    | none => false)

/-- One entry of a page (R24). -/
def listEntry (x : Element × Nat) : List Byte :=
  u8 x.2 ++ u8 x.1.stateCode ++
    (match x.1.fitting? with
      | some f =>
          u8 f.settings.kind.code ++ u8 f.settings.transport ++ labelReply f.settings.label ++
          u32 f.accumulator ++ f.projection.bytes
      | none => [])

/-- The entries of a page (R24). -/
def State.listPage (s : State) (first : Nat) (stateFilter : BitVec 8) (transportFilter : Nat) :
    List (Element × Nat) :=
  (((tenum s.elements).drop first).filter fun x => x.1.listed stateFilter transportFilter).take 8

/-- The next index of a page: after an eighth match before the last element (R24). -/
def nextIndex (page : List (Element × Nat)) : Option Nat :=
  match page[7]? with
  | some x => if x.2 < lastElement then some (x.2 + 1) else none
  | none => none

/-- LIST ELEMENTS (R24). -/
def execListElements (first : Nat) (stateFilter : BitVec 8) (transportFilter : Nat) (s : State) :
    Host.Outcome State Fault Refusal :=
  s.request (.listElements first stateFilter transportFilter) fun s =>
    if listOk first stateFilter transportFilter then
      let page := s.listPage first stateFilter transportFilter
      accept s (u8 page.length ++ page.flatMap listEntry ++ indexOrNone (nextIndex page))
    else refuse s .badValue

end Sys2Proof.Machine
end

