-- ==== Sys2Proof/Machine/WearRequests.lean ====
section
/-! DEFINITION. Requests on the wear engine: SET WATCH, READ WATCH, ARM CAPTURE, READ CAPTURE (R47 to R53). -/

namespace Sys2Proof.Machine

/-! ### Watch -/

/-- An element index field that may be none or any (R180): the value none, or an index in range. -/
def elementOrNone? (n : Nat) : Option (Option Nat) :=
  if n = 255 then some none else if n ≤ lastElement then some (some n) else none

/-- R47. -/
def setWatchWork (element : Nat) (s : State) : Answer :=
  match elementOrNone? element with
  | some watched => accept { s with wear := { s.wear with watched, ring := [] } } (indexOrNone watched)
  | none => refuse s .badValue

/-- SET WATCH (R47). -/
def execSetWatch (element : Nat) (s : State) : Host.Outcome State Fault Refusal :=
  s.request (.setWatch element) (setWatchWork element)

/-- R48, R180. -/
def WatchEntry.bytes (e : WatchEntry) : List Byte :=
  (match e.source with
    | .item serial => u8 0 ++ u32 serial
    | .run => u8 1
    | .jam => u8 2) ++ u32 e.units ++ u32 e.after

/-- R49. -/
def WearEngine.watchBytes (w : WearEngine) : List Byte :=
  indexOrNone w.watched ++ u8 w.ring.length ++ w.ring.reverse.flatMap WatchEntry.bytes

/-- READ WATCH (R49). -/
def execReadWatch (s : State) : Host.Outcome State Fault Refusal :=
  s.request .readWatch fun s => accept s s.wear.watchBytes

/-! ### Capture -/

def levelOf? (n : Nat) : Option Level :=
  match n with
  | 0 => some .advised
  | 1 => some .due
  | 2 => some .limit
  | _ => none

/-- R50. -/
def armCaptureWork (level scope : Nat) (s : State) : Answer :=
  match levelOf? level, elementOrNone? scope with
  | some l, some which => accept { s with wear := { s.wear with capture := .armed ⟨l, which⟩ } } []
  | _, _ => refuse s .badValue

/-- ARM CAPTURE (R50). -/
def execArmCapture (level scope : Nat) (s : State) : Host.Outcome State Fault Refusal :=
  s.request (.armCapture level scope) (armCaptureWork level scope)

def Trigger.bytes (t : Trigger) : List Byte := u8 t.level.code ++ indexOrNone t.scope

/-- The source and, for an item, its fields (R52, R180). -/
def MilestoneSource.bytes : MilestoneSource → List Byte
  | .item serial destination thickness length => u8 0 ++ u32 serial ++ u16 destination ++ u8 thickness ++ u16 length
  | .run => u8 1
  | .jam => u8 2
  | .setting => u8 3
  | .assign => u8 4

/-- R52. -/
def CaptureRecord.bytes (r : CaptureRecord) : List Byte :=
  u8 r.element ++ u8 r.level.code ++ r.source.bytes ++ u8 r.mode.code ++ minuteBytes r.minute ++ u32 r.after

/-- R53. -/
def Capture.bytes : Capture → List Byte
  | .disarmed => u8 0
  | .armed t => u8 1 ++ t.bytes
  | .filled t r => u8 2 ++ t.bytes ++ r.bytes

/-- READ CAPTURE (R53). -/
def execReadCapture (s : State) : Host.Outcome State Fault Refusal :=
  s.request .readCapture fun s => accept s s.wear.capture.bytes

end Sys2Proof.Machine
end

