-- ==== Sys2Proof/Machine/RouteRequests.lean ====
section
/-! DEFINITION. Requests on the route map: SET MASK, SET ROUTE, CLEAR ROUTE, SET COMMON PATH, READ ROUTE, READ
ROUTE COUNTS (R46, R63 to R70). -/

namespace Sys2Proof.Machine

/-! ### Edits -/

/-- An edit of the map: refused in COUNTING whatever it carries, then judged by its values (R63). -/
def State.editMap (s : State) (ok : Bool) (edited : RouteMap) (reply : List Byte) : Answer :=
  if s.engine == .counting then refuse s .wrongState
  else if ok then accept { s with routes := edited } reply
  else refuse s .badValue

def RouteMap.setMask (m : RouteMap) (index : Nat) (value : BitVec 16) : RouteMap :=
  { m with masks := tset m.masks index value }

def RouteMap.setRoute (m : RouteMap) (index : Nat) (r : Route) : RouteMap :=
  { m with routes := tset m.routes index r }

/-- SET MASK (R64). -/
def execSetMask (index : Nat) (value : BitVec 16) (s : State) : Host.Outcome State Fault Refusal :=
  s.request (.setMask index value) fun s =>
    s.editMap (index ≤ 7) (s.routes.setMask index value) (u8 index)

/-- A path's count and entries are in range (R65, R67). -/
def pathOk (path : List Nat) : Bool := path.length ≤ 16 && path.all fun i => i ≤ lastElement

/-- SET ROUTE (R65). -/
def execSetRoute (index enabled : Nat) (pattern : BitVec 16) (maskIndex : Nat) (path : List Nat) (s : State) :
    Host.Outcome State Fault Refusal :=
  s.request (.setRoute index enabled pattern maskIndex path) fun s =>
    s.editMap (index ≤ 31 && enabled ≤ 1 && maskIndex ≤ 7 && pathOk path)
      (s.routes.setRoute index ⟨enabled == 1, pattern, maskIndex, path⟩) (u8 index)

/-- CLEAR ROUTE (R66). -/
def execClearRoute (index : Nat) (s : State) : Host.Outcome State Fault Refusal :=
  s.request (.clearRoute index) fun s =>
    s.editMap (index ≤ 31) (s.routes.setRoute index .empty) (u8 index)

/-- SET COMMON PATH (R67). -/
def execSetCommonPath (path : List Nat) (s : State) : Host.Outcome State Fault Refusal :=
  s.request (.setCommonPath path) fun s =>
    s.editMap (pathOk path) { s.routes with commonPath := path } (u8 path.length)

/-! ### Reads -/

/-- R69: one route. -/
def RouteMap.routeBytes (m : RouteMap) (k : Nat) : List Byte :=
  let r := m.route k
  flag r.enabled ++ u16 r.pattern.toNat ++ u8 r.maskIndex ++ u16 (m.mask r.maskIndex).toNat ++
    pathBytes r.path ++ u32 (m.matchCount k).toNat

/-- R69: the reply by selector (R180: 0x40 COMMON, 0x41 MASKS). -/
def RouteMap.selected? (m : RouteMap) (selector : Nat) : Option (List Byte) :=
  if selector ≤ 31 then some (m.routeBytes selector)
  else if selector = 0x40 then some (pathBytes m.commonPath)
  else if selector = 0x41 then some ((tlist m.masks).flatMap fun v => u16 v.toNat)
  else none

/-- READ ROUTE (R69). -/
def execReadRoute (selector : Nat) (s : State) : Host.Outcome State Fault Refusal :=
  s.request (.readRoute selector) fun s =>
    match s.routes.selected? selector with
    | some bytes => accept s bytes
    | none => refuse s .badValue

/-- The accounts of R70. -/
def State.routeCountBytes (s : State) : List Byte :=
  (tlist s.routes.matchCounts).flatMap (fun n => u32 n.toNat) ++ u32 s.routes.unrouted.toNat ++
  u32 s.wear.received.toNat ++ u32 s.wear.counted.toNat ++ u32 s.wear.notCounted.toNat ++
  u32 s.wear.lost.toNat ++ u8 s.line.items

/-- The clear option of R70 (R46). -/
def State.clearItemCounts (s : State) : State :=
  { s with wear := s.clearedItems, routes := s.routes.clearCounts }

/-- READ ROUTE COUNTS (R70). -/
def execReadRouteCounts (clear : Nat) (s : State) : Host.Outcome State Fault Refusal :=
  s.request (.readRouteCounts clear) fun s =>
    match boolOf? clear with
    | some true => accept s.clearItemCounts s.routeCountBytes
    | some false => accept s s.routeCountBytes
    | none => refuse s .badValue

end Sys2Proof.Machine
end

