-- ==== Sys2Proof/Machine/TransportRequests.lean ====
section
/-! DEFINITION. Requests on the transport monitor: READ TRANSPORT, READ INTERVAL COUNTS (R89, R90). -/

namespace Sys2Proof.Machine

/-- The largest transport index (R71). -/
abbrev lastTransport : Nat := 31

/-- The last sample: its classification, then the fields that classification gives (R89, R180;
notes/assumptions/14.md). -/
def sampleBytes : Option Sample → List Byte
  | none => u8 0
  | some x =>
      (match x.classification with
        | .invalid => u8 1
        | .idle => u8 2
        | .evaluated _ => u8 3) ++
      u16 x.drive ++ u16 x.belt ++
      (match x.classification with
        | .evaluated p => u16 p
        | .invalid => []
        | .idle => [])

/-- The number of elements assigned to a transport (R89). -/
def State.elementsOn (s : State) (t : Nat) : Nat :=
  (tlist s.elements).countP fun e =>
    match e.fitting? with
    | some f => f.settings.transport == t
    | none => false

/-- R89. -/
def State.transportBytes (s : State) (t : Nat) : List Byte :=
  let r := s.transport t
  u8 t ++ flag r.running ++ u8 r.slip.code ++ u8 r.overRun ++ u8 r.goodRun ++ u8 r.sensor.code ++
  u8 r.window.length ++ u8 r.invalidInWindow ++ u16 r.validRun ++ sampleBytes r.last ++ u8 (s.elementsOn t)

/-- READ TRANSPORT (R89). -/
def execReadTransport (index : Nat) (s : State) : Host.Outcome State Fault Refusal :=
  s.request (.readTransport index) fun s =>
    if lastTransport < index then refuse s .badValue else accept s (s.transportBytes index)

def IntervalCounters.bytes (c : IntervalCounters) : List Byte :=
  u16 c.items ++ u16 c.jams ++ u16 c.overLimit ++ u16 c.invalid ++ u16 c.runningMinutes

/-- One transport's line of R90. -/
def State.intervalBytes (s : State) (t : Nat) : List Byte :=
  u8 t ++ (s.transport t).snapshot.bytes ++ (s.transport t).live.bytes

/-- R90. -/
def runOk (first number : Nat) : Bool :=
  first ≤ lastTransport && 1 ≤ number && number ≤ 8 && first + number ≤ 32

/-- READ INTERVAL COUNTS (R90; its list is preceded by its count, R179, notes/assumptions/14.md). -/
def execReadIntervalCounts (first number : Nat) (s : State) : Host.Outcome State Fault Refusal :=
  s.request (.readIntervalCounts first number) fun s =>
    if runOk first number then
      accept s (flag s.snapshotTaken ++ u8 number ++ (List.range' first number).flatMap s.intervalBytes)
    else refuse s .badValue

end Sys2Proof.Machine
end

