-- ==== Sys2Proof/Machine/HoldRequests.lean ====
section
/-! DEFINITION. Requests on holds: WAIVE HOLD, READ HOLDS, ABORT HOLD, RELEASE HOLD (R123 to R126). -/

namespace Sys2Proof.Machine

/-! ### WAIVE HOLD -/

/-- The waiver is stored and the transport re-evaluated (R125). -/
def State.setWaiver (s : State) (i : Nat) (f : Fitting) (waived : Bool) : State :=
  (s.setFitting i { f with waived := waived }).reevaluate f.settings.transport

/-- R125: index, then state, then value. -/
def waiveHoldWork (index setting : Nat) (s : State) : Answer :=
  if lastElement < index then refuse s .badValue
  else
    match s.fitting? index with
    | none => refuse s .elementState
    | some f =>
        if f.state = .limit then
          match boolOf? setting with
          | some waived => accept (s.setWaiver index f waived) (u8 index ++ flag waived)
          | none => refuse s .badValue
        else refuse s .elementState

/-- WAIVE HOLD (R125). -/
def execWaiveHold (index setting : Nat) (s : State) : Host.Outcome State Fault Refusal :=
  s.request (.waiveHold index setting) (waiveHoldWork index setting)

/-! ### READ HOLDS -/

/-- What is left of a timer started with `started` milliseconds: a free value in range (notes/assumptions/3.md). -/
def timerLeft (sample started : Nat) : Nat := 1 + Config.timerSample sample % started

/-- R126: one slot. -/
def HoldSlot.bytes (sample : Nat) (v : HoldSlot) : List Byte :=
  u8 v.state.code ++ indexOrNone v.transport ++ u8 v.outcome.code ++
    u16 (match v.timer with | some started => timerLeft sample started | none => 0)

/-- R126, R180: one transmit list entry; `begun` for the head being sent. -/
def TxEntry.bytes (begun : Bool) : TxEntry → List Byte
  | .request slot t => u8 (if begun then 0xA1 else 0x21) ++ u8 slot ++ u8 t
  | .release t => u8 (if begun then 0xA2 else 0x22) ++ u8 255 ++ u8 t

def HoldUnit.transmitBytes (h : HoldUnit) : List Byte :=
  match h.transmit with
  | [] => []
  | e :: rest => e.bytes h.sending ++ rest.flatMap (TxEntry.bytes false)

/-- R126; the four slots' timers are sampled with the free counter's next four values. -/
def HoldUnit.bytes (sample : Nat) (h : HoldUnit) : List Byte :=
  (tlist h.states).flatMap HoldState.bytes ++
  (tenum h.slots).flatMap (fun x => HoldSlot.bytes (sample + x.2) x.1) ++
  u8 h.waiting.length ++ h.waiting.flatMap u8 ++ u8 h.transmit.length ++ h.transmitBytes

/-- The free counter moves past the four values that READ HOLDS used (notes/assumptions/3.md). -/
def State.afterSampling (s : State) : State := { s with freeCount := s.freeCount + 4 }

/-- READ HOLDS (R126). -/
def execReadHolds (s : State) : Host.Outcome State Fault Refusal :=
  s.request .readHolds fun s => accept s.afterSampling (s.hold.bytes s.freeCount)

/-! ### ABORT HOLD and RELEASE HOLD -/

/-- The state an aborted slot is left in, before the arbiter runs (R123). -/
def HoldUnit.abortedState (h : HoldUnit) (k t : Nat) : SlotState :=
  match (h.slot k).state with
  | .pending => ((h.withdraw k t .aborted).slot k).state
  | .sent => .aborting
  | .free => .free
  | .aborting => .aborting

/-- An accepted ABORT HOLD (R123). -/
def State.abort (s : State) (k t : Nat) : State :=
  (({ s with hold := s.hold.giveUp s.arbiterOn k t .aborted }).waiveTransport t).reevaluate t

/-- R123. -/
def abortHoldWork (k : Nat) (s : State) : Answer :=
  if 3 < k then refuse s .badValue
  else
    match (s.hold.slot k).state, (s.hold.slot k).transport with
    | .pending, some t | .sent, some t =>
        accept (s.abort k t)
          (u8 k ++ u8 t ++ u8 (s.hold.abortedState k t).code ++ u8 (s.limitCount t))
    | _, _ => refuse s .notFound

/-- ABORT HOLD (R123). -/
def execAbortHold (slot : Nat) (s : State) : Host.Outcome State Fault Refusal :=
  s.request (.abortHold slot) (abortHoldWork slot)

/-- An accepted RELEASE HOLD (R124). -/
def State.releaseTransport (s : State) (t : Nat) : State := (s.waiveTransport t).reevaluate t

/-- R124. -/
def releaseHoldWork (t : Nat) (s : State) : Answer :=
  if lastTransport < t then refuse s .badValue
  else
    accept (s.releaseTransport t)
      (u8 t ++ u8 ((s.releaseTransport t).hold.state t).code ++ u8 (s.limitCount t))

/-- RELEASE HOLD (R124). -/
def execReleaseHold (transport : Nat) (s : State) : Host.Outcome State Fault Refusal :=
  s.request (.releaseHold transport) (releaseHoldWork transport)

end Sys2Proof.Machine
end

