-- ==== Sys2Proof/Machine/PlanRequests.lean ====
section
/-! DEFINITION. Requests on the plan: ADD WINDOW, REMOVE WINDOW, PIN, UNPIN, REPLAN, READ PLAN, READ WINDOWS
(R143, R144, R158 to R162). -/

namespace Sys2Proof.Machine

def State.setPlan (s : State) (p : PlanUnit) : State := { s with plan := p }

/-! ### Windows -/

/-- The value checks of R143, with the clock at `c`. -/
def windowOk (c start length capacity : Nat) : Bool :=
  15 ≤ length && length ≤ 1440 && 1 ≤ capacity && capacity ≤ 32 && start ≤ maxMinute &&
  start + length ≤ maxMinute && c < start + length

/-- An accepted ADD WINDOW (R143). -/
def State.addWindow (s : State) (slot start length capacity : Nat) : State :=
  (s.setPlan { s.plan with windows := tset s.plan.windows slot (some ⟨start, length, capacity, 0, 0⟩) }).replan

/-- R143. -/
def addWindowWork (start length capacity : Nat) (s : State) : Answer :=
  match s.clock with
  | none => refuse s .clockUnset
  | some c =>
      if windowOk c start length capacity then
        match s.plan.freeSlot? with
        | some slot => accept (s.addWindow slot start length capacity) (u8 slot)
        | none => refuse s .noRoom
      else refuse s .badValue

/-- ADD WINDOW (R143). -/
def execAddWindow (start length capacity : Nat) (s : State) : Host.Outcome State Fault Refusal :=
  s.request (.addWindow start length capacity) (addWindowWork start length capacity)

/-- R144. -/
def removeWindowWork (slot : Nat) (s : State) : Answer :=
  if 7 < slot then refuse s .badValue
  else
    match s.plan.window slot with
    | some _ => accept (s.setPlan (s.plan.removeWindow slot)).replan (u8 slot ++ u8 (s.plan.assignedTo slot))
    | none => refuse s .notFound

/-- REMOVE WINDOW (R144). -/
def execRemoveWindow (slot : Nat) (s : State) : Host.Outcome State Fault Refusal :=
  s.request (.removeWindow slot) (removeWindowWork slot)

/-! ### Pins -/

/-- The entry PIN makes for an element that has none (R158). -/
def State.pinEntry (s : State) (i : Nat) (f : Fitting) : PlanEntry where
  element := i
  generation := (s.element i).generation
  due := f.projection
  reason := f.state.reason?.getD .horizon
  window := none
  pinned := false
  unplaced := false
  cost := f.settings.cost

def PlanUnit.pinnedEntry? (p : PlanUnit) (i : Nat) : Option PlanEntry :=
  p.queue.find? fun e => e.pinned && e.element == i

def PlanUnit.pinCount (p : PlanUnit) : Nat := p.queue.countP PlanEntry.pinned

/-- The NO_ROOM test of R158; an element pinned elsewhere is tested against the window alone
(notes/assumptions/20.md). -/
def PlanUnit.pinFits (p : PlanUnit) (i slot cost : Nat) (w : Window) : Bool :=
  match p.pinnedEntry? i with
  | some e => e.window == some slot || w.pinnedLoad + cost ≤ w.capacity
  | none => w.pinnedLoad + cost ≤ w.capacity && p.pinCount < queueLimit

/-- An accepted PIN (R158). -/
def State.pinElement (s : State) (c i slot : Nat) (f : Fitting) : State :=
  (s.takePlan (s.plan.pin c (s.pinEntry i f) slot)).replan

/-- R158. -/
def pinWork (i slot : Nat) (s : State) : Answer :=
  if lastElement < i || 7 < slot then refuse s .badValue
  else
    match s.clock, s.fitting? i, s.plan.window slot with
    | none, _, _ => refuse s .clockUnset
    | some _, none, _ => refuse s .elementState
    | some _, some _, none => refuse s .notFound
    | some c, some f, some w =>
        if s.plan.pinFits i slot f.settings.cost w then accept (s.pinElement c i slot f) (u8 i ++ u8 slot)
        else refuse s .noRoom

/-- PIN (R158). -/
def execPin (element slot : Nat) (s : State) : Host.Outcome State Fault Refusal :=
  s.request (.pin element slot) (pinWork element slot)

/-- R159. -/
def unpinWork (i : Nat) (s : State) : Answer :=
  if lastElement < i then refuse s .badValue
  else
    match s.plan.pinnedEntry? i with
    | some e => accept (s.setPlan (s.plan.unpin e)).replan (u8 i)
    | none => refuse s .notFound

/-- UNPIN (R159). -/
def execUnpin (element : Nat) (s : State) : Host.Outcome State Fault Refusal :=
  s.request (.unpin element) (unpinWork element)

/-! ### REPLAN -/

def PlanEntry.awaiting (e : PlanEntry) : Bool := e.window.isNone && !e.unplaced

/-- The five counts of R160. -/
def Replan.bytes (r : Replan) : List Byte :=
  u8 r.unit.queue.length ++ u8 (r.unit.queue.countP fun e => e.window.isSome) ++
  u8 (r.unit.queue.countP PlanEntry.unplaced) ++ u8 (r.unit.queue.countP PlanEntry.awaiting) ++ u8 r.cut

/-- REPLAN (R160). -/
def execReplan (s : State) : Host.Outcome State Fault Refusal :=
  s.request .replan fun s => accept s.replan s.replanOf.bytes

/-! ### Reads -/

/-- One entry of a READ PLAN page: its position and the fields of R146 (R161). -/
def planEntryBytes (x : PlanEntry × Nat) : List Byte :=
  u8 x.2 ++ u8 x.1.element ++ u16 x.1.generation.toNat ++ x.1.due.bytes ++ u8 x.1.reason.code ++
  indexOrNone x.1.window ++ flag x.1.pinned ++ flag x.1.unplaced ++ u8 x.1.cost

/-- The page of up to eight entries from a position (R161). -/
def PlanUnit.page (p : PlanUnit) (first : Nat) : List (PlanEntry × Nat) := (p.queue.zipIdx.drop first).take 8

/-- The position after the last entry returned, when entries remain beyond it (R161). -/
def PlanUnit.nextPosition (p : PlanUnit) (first : Nat) : Option Nat :=
  if first + 8 < p.queue.length then some (first + 8) else none

def State.planBytes (s : State) (first : Nat) : List Byte :=
  minuteBytes s.clock ++ u8 s.plan.queue.length ++ u8 (s.plan.queue.countP PlanEntry.unplaced) ++
  u8 (s.plan.page first).length ++ (s.plan.page first).flatMap planEntryBytes ++
  indexOrNone (s.plan.nextPosition first)

/-- READ PLAN (R161). -/
def execReadPlan (first : Nat) (s : State) : Host.Outcome State Fault Refusal :=
  s.request (.readPlan first) fun s => if 63 < first then refuse s .badValue else accept s (s.planBytes first)

/-- One slot of READ WINDOWS (R162). -/
def PlanUnit.windowBytes (p : PlanUnit) (k : Nat) : List Byte :=
  match p.window k with
  | none => flag false
  | some w =>
      flag true ++ u32 w.start ++ u16 w.length ++ u32 w.endMinute ++ u8 w.capacity ++ u8 w.used ++
      u8 w.pinnedLoad ++ u8 (p.assignedTo k)

/-- The slots of a page (R162). -/
def slotsFrom (first : Nat) : List Nat := List.range' first (min 4 (8 - first))

def PlanUnit.windowsBytes (p : PlanUnit) (first : Nat) : List Byte :=
  u8 (slotsFrom first).length ++ (slotsFrom first).flatMap p.windowBytes ++
  indexOrNone (if first + 4 < 8 then some (first + 4) else none)

/-- READ WINDOWS (R162). -/
def execReadWindows (first : Nat) (s : State) : Host.Outcome State Fault Refusal :=
  s.request (.readWindows first) fun s =>
    if 7 < first then refuse s .badValue else accept s (s.plan.windowsBytes first)

end Sys2Proof.Machine
end

