-- ==== Sys2Proof/Machine/SaveCommands.lean ====
section
/-! DEFINITION. The checkpoint's commands: CHECKPOINT_RECORD_WRITTEN, SAVE, READ SAVE STATUS
(R168, R171, R172). -/

namespace Sys2Proof.Machine

/-- CHECKPOINT_RECORD_WRITTEN (R168). -/
def execCheckpointRecordWritten (result : WriteResult) (s : State) : Host.Outcome State Fault Refusal :=
  s.act fun s => s.recordWritten result

/-- R171. -/
def saveWork (s : State) : Answer :=
  if s.ckpt.progress.isWriting then
    ⟨s.triggerCheckpoint, .inProgress, u32 s.ckpt.sequence.toNat ++ u8 s.ckpt.progress.cursor, .nothing⟩
  else ⟨s.triggerCheckpoint, .started, u32 (s.ckpt.sequence + 1).toNat, .nothing⟩

/-- SAVE (R171). -/
def execSave (s : State) : Host.Outcome State Fault Refusal := s.request .save saveWork

/-- R172; failed so far is present only while WRITING (notes/assumptions/14.md). -/
def CheckpointUnit.bytes (k : CheckpointUnit) : List Byte :=
  u8 k.progress.code ++ u8 k.progress.cursor ++ flag k.pending ++ u32 k.sequence.toNat ++
  (if k.progress.isWriting then u8 k.failedSoFar else []) ++ u8 k.lastFailed ++ u8 k.outcome.code ++
  u8 k.stale ++ u8 k.suspects

/-- READ SAVE STATUS (R172): between a record's copy and its verification no reply falls, and the request waits
(notes/assumptions/12.md). -/
def execReadSaveStatus (s : State) : Host.Outcome State Fault Refusal :=
  s.act fun s =>
    if s.ckpt.progress.midRecord then s.await .readSaveStatus
    else s.serve .readSaveStatus fun s => accept s s.ckpt.bytes

end Sys2Proof.Machine
end

