-- ==== Sys2Proof/Machine/AlertRequests.lean ====
section
/-! DEFINITION. Requests on alerts: FETCH ALERTS, SET NOTICE MASK (R192, R193). -/

namespace Sys2Proof.Machine

/-- A mask selects kinds 0 to 18 alone (R192, R193). -/
def maskOk (mask : BitVec 32) : Bool := mask >>> 19 == 0

/-- The returned set (R192). -/
def State.fetched (s : State) (mask : BitVec 32) : BitVec 19 := s.alerts.latched &&& mask.setWidth 19

/-- The returned bits clear, but for conditions that hold (R192). -/
def State.clearFetched (s : State) (mask : BitVec 32) : State :=
  { s with
    alerts := { s.alerts with latched := s.alerts.latched &&& ~~~(s.fetched mask &&& ~~~s.conditionBits) } }

/-- The returned set and the last subject of each of its kinds (R192). -/
def State.fetchBytes (s : State) (mask : BitVec 32) : List Byte :=
  u32 (s.fetched mask).toNat ++ (kindsIn (s.fetched mask)).flatMap fun k => u16 (tget s.alerts.subjects k 0)

/-- R192. -/
def fetchAlertsWork (mask : BitVec 32) (s : State) : Answer :=
  if maskOk mask then accept (s.clearFetched mask) (s.fetchBytes mask) else refuse s .badValue

/-- FETCH ALERTS (R192). -/
def execFetchAlerts (mask : BitVec 32) (s : State) : Host.Outcome State Fault Refusal :=
  s.request (.fetchAlerts mask) (fetchAlertsWork mask)

/-- R193. -/
def setNoticeMaskWork (mask : BitVec 32) (s : State) : Answer :=
  if maskOk mask then accept { s with alerts := { s.alerts with mask := mask.setWidth 19 } } []
  else refuse s .badValue

/-- SET NOTICE MASK (R193). -/
def execSetNoticeMask (mask : BitVec 32) (s : State) : Host.Outcome State Fault Refusal :=
  s.request (.setNoticeMask mask) (setNoticeMaskWork mask)

end Sys2Proof.Machine
end

