-- ==== Sys2Proof/Machine/ReplySent.lean ====
section
/-! DEFINITION. HOST_REPLY_SENT: the end of a reply, and a held request whose work is complete when the transmitter
next chooses (R183, R184; notes/assumptions/2.md). -/

namespace Sys2Proof.Machine

/-- The row of a host request, executed on a part; an event is no request. -/
def execRequest (i : Instr) (s : State) : Host.Outcome State Fault Refusal :=
  match i with
  | .status => execStatus s
  | .setClock value => execSetClock value s
  | .start => execStart s
  | .stop => execStop s
  | .restart => execRestart s
  | .wipe => execWipe s
  | .setOptions fields => execSetOptions fields s
  | .readOptions => execReadOptions s
  | .clearCounts => execClearCounts s
  | .assignElement index fields accumulator => execAssignElement index fields accumulator s
  | .replaceElement index => execReplaceElement index s
  | .retireElement index => execRetireElement index s
  | .setThresholds index advisory due limit => execSetThresholds index advisory due limit s
  | .setWeights index fields => execSetWeights index fields s
  | .readElement index => execReadElement index s
  | .listElements first stateFilter transportFilter => execListElements first stateFilter transportFilter s
  | .waiveHold index setting => execWaiveHold index setting s
  | .setWatch element => execSetWatch element s
  | .readWatch => execReadWatch s
  | .armCapture level scope => execArmCapture level scope s
  | .readCapture => execReadCapture s
  | .setMask index value => execSetMask index value s
  | .setRoute index enabled pattern maskIndex path => execSetRoute index enabled pattern maskIndex path s
  | .clearRoute index => execClearRoute index s
  | .setCommonPath path => execSetCommonPath path s
  | .readRoute selector => execReadRoute selector s
  | .readRouteCounts clear => execReadRouteCounts clear s
  | .readTransport index => execReadTransport index s
  | .readIntervalCounts first number => execReadIntervalCounts first number s
  | .readHolds => execReadHolds s
  | .abortHold slot => execAbortHold slot s
  | .releaseHold transport => execReleaseHold transport s
  | .addWindow startAt length capacity => execAddWindow startAt length capacity s
  | .removeWindow slot => execRemoveWindow slot s
  | .pin element slot => execPin element slot s
  | .unpin element => execUnpin element s
  | .replan => execReplan s
  | .readPlan first => execReadPlan first s
  | .readWindows first => execReadWindows first s
  | .save => execSave s
  | .readSaveStatus => execReadSaveStatus s
  | .fetchAlerts mask => execFetchAlerts mask s
  | .setNoticeMask mask => execSetNoticeMask mask s
  | .powerOn | .resetPin _ | .powerLoss _ _ _ | .startupEnd | .lineRecordArrival _ | .lineRecordAbandoned
  | .takeRecord | .lineTxSent | .holdTimerExpiry _ | .minuteTick | .deferralEnd | .windowExpiry
  | .intervalBoundary | .checkpointRecordWritten _ | .hostFrameComplete _ | .hostFrameAbandoned
  | .hostReplySent | .busyReplySent | .noticeSent | .lineByteReceived _ | .hostByteReceived _ => .next s

/-- The request that the end of the reply being sent takes from the held position and dispatches (R182, R183). -/
def State.dispatchedNext (s : State) : Option Instr :=
  match s.host.tx, s.host.inHand with
  | some .reply, some ⟨_, .sending r⟩ =>
      match r.after, (s.host.finish s.engine).inHand with
      | .nothing, some ⟨_, .executing i⟩ => some i
      | _, _ => none
  | _, _ => none

/-- HOST_REPLY_SENT (R183, R184). A request whose work is complete by then has its row executed before the
transmitter chooses, so that its reply goes before every notice. -/
def execHostReplySent (s : State) : Host.Outcome State Fault Refusal :=
  match s.dispatchedNext with
  | some i =>
      if s.powered && s.prompt then execRequest i s.promptTaken.replySent
      else s.act fun s => s.promptTaken.replySent
  | none => s.act State.replySent

end Sys2Proof.Machine
end

