-- ==== Sys2Proof/Machine/Dispatch.lean ====
section
/-! DEFINITION. The commands and their meanings, one arm each. -/

namespace Sys2Proof.Machine

def exec (i : Instr) (s : State) : Host.Outcome State Fault Refusal :=
  match i with
  | .powerOn => Sys2Proof.Machine.execPowerOn s
  | .resetPin erased => Sys2Proof.Machine.execResetPin erased s
  | .powerLoss tear erased eraseTorn => Sys2Proof.Machine.execPowerLoss tear erased eraseTorn s
  | .startupEnd => Sys2Proof.Machine.execStartupEnd s
  | .lineRecordArrival bytes => Sys2Proof.Machine.execLineRecordArrival bytes s
  | .lineRecordAbandoned => Sys2Proof.Machine.execLineRecordAbandoned s
  | .takeRecord => Sys2Proof.Machine.execTakeRecord s
  | .lineTxSent => Sys2Proof.Machine.execLineTxSent s
  | .holdTimerExpiry slot => Sys2Proof.Machine.execHoldTimerExpiry slot s
  | .minuteTick => Sys2Proof.Machine.execMinuteTick s
  | .deferralEnd => Sys2Proof.Machine.execDeferralEnd s
  | .windowExpiry => Sys2Proof.Machine.execWindowExpiry s
  | .intervalBoundary => Sys2Proof.Machine.execIntervalBoundary s
  | .checkpointRecordWritten result => Sys2Proof.Machine.execCheckpointRecordWritten result s
  | .hostFrameComplete bytes => Sys2Proof.Machine.execHostFrameComplete bytes s
  | .hostFrameAbandoned => Sys2Proof.Machine.execHostFrameAbandoned s
  | .hostReplySent => Sys2Proof.Machine.execHostReplySent s
  | .busyReplySent => Sys2Proof.Machine.execBusyReplySent s
  | .noticeSent => Sys2Proof.Machine.execNoticeSent s
  | .status => Sys2Proof.Machine.execStatus s
  | .setClock value => Sys2Proof.Machine.execSetClock value s
  | .start => Sys2Proof.Machine.execStart s
  | .stop => Sys2Proof.Machine.execStop s
  | .restart => Sys2Proof.Machine.execRestart s
  | .wipe => Sys2Proof.Machine.execWipe s
  | .setOptions fields => Sys2Proof.Machine.execSetOptions fields s
  | .readOptions => Sys2Proof.Machine.execReadOptions s
  | .clearCounts => Sys2Proof.Machine.execClearCounts s
  | .assignElement index fields accumulator => Sys2Proof.Machine.execAssignElement index fields accumulator s
  | .replaceElement index => Sys2Proof.Machine.execReplaceElement index s
  | .retireElement index => Sys2Proof.Machine.execRetireElement index s
  | .setThresholds index advisory due limit => Sys2Proof.Machine.execSetThresholds index advisory due limit s
  | .setWeights index fields => Sys2Proof.Machine.execSetWeights index fields s
  | .readElement index => Sys2Proof.Machine.execReadElement index s
  | .listElements first stateFilter transportFilter => Sys2Proof.Machine.execListElements first stateFilter transportFilter s
  | .waiveHold index setting => Sys2Proof.Machine.execWaiveHold index setting s
  | .setWatch element => Sys2Proof.Machine.execSetWatch element s
  | .readWatch => Sys2Proof.Machine.execReadWatch s
  | .armCapture level scope => Sys2Proof.Machine.execArmCapture level scope s
  | .readCapture => Sys2Proof.Machine.execReadCapture s
  | .setMask index value => Sys2Proof.Machine.execSetMask index value s
  | .setRoute index enabled pattern maskIndex path => Sys2Proof.Machine.execSetRoute index enabled pattern maskIndex path s
  | .clearRoute index => Sys2Proof.Machine.execClearRoute index s
  | .setCommonPath path => Sys2Proof.Machine.execSetCommonPath path s
  | .readRoute selector => Sys2Proof.Machine.execReadRoute selector s
  | .readRouteCounts clear => Sys2Proof.Machine.execReadRouteCounts clear s
  | .readTransport index => Sys2Proof.Machine.execReadTransport index s
  | .readIntervalCounts first number => Sys2Proof.Machine.execReadIntervalCounts first number s
  | .readHolds => Sys2Proof.Machine.execReadHolds s
  | .abortHold slot => Sys2Proof.Machine.execAbortHold slot s
  | .releaseHold transport => Sys2Proof.Machine.execReleaseHold transport s
  | .addWindow startAt length capacity => Sys2Proof.Machine.execAddWindow startAt length capacity s
  | .removeWindow slot => Sys2Proof.Machine.execRemoveWindow slot s
  | .pin element slot => Sys2Proof.Machine.execPin element slot s
  | .unpin element => Sys2Proof.Machine.execUnpin element s
  | .replan => Sys2Proof.Machine.execReplan s
  | .readPlan first => Sys2Proof.Machine.execReadPlan first s
  | .readWindows first => Sys2Proof.Machine.execReadWindows first s
  | .save => Sys2Proof.Machine.execSave s
  | .readSaveStatus => Sys2Proof.Machine.execReadSaveStatus s
  | .fetchAlerts mask => Sys2Proof.Machine.execFetchAlerts mask s
  | .setNoticeMask mask => Sys2Proof.Machine.execSetNoticeMask mask s
  | .lineByteReceived byte => Sys2Proof.Machine.execLineByteReceived byte s
  | .hostByteReceived byte => Sys2Proof.Machine.execHostByteReceived byte s

end Sys2Proof.Machine
end

