-- ==== Sys2Proof/Safety.lean ====
section
/-! DEFINITION. The terms statements are written in: when a request row executes and what its reply is, and the
laws that the manual says hold of every block at every moment (R5, R45, R77, R79, R80, R99, R107, R112, R142,
R146, R191). -/

namespace Sys2Proof.Machine

/-! ### Requests -/

/-- The request was dispatched last: it is in hand under its code as received, and its own row executes it. -/
abbrev State.serving (s : State) (i : Instr) (code : Byte) : Prop :=
  s.powered = true ∧ s.host.inHand = some ⟨code, .executing i⟩ ∧ code.msb = false ∧ code ≠ 0x7F

/-- The part with the reply of the request in hand made ready (R179, R182, R185). -/
def State.withReply (s : State) (code : Byte) (status : Status) (payload : List Byte) (after : AfterReply) :
    State :=
  { s with
    host := { s.host with
      inHand := some ⟨code, .ready
        { code := code ||| 0x80, status, payload, summary := if code.getLsbD 6 then s.summary else [], after }⟩ } }

/-- The row's outcome is the part `u` with a ready reply, and what the host transmitter then begins (R184). -/
def Replies (i : Instr) (s : State) (code : Byte) (u : State) (status : Status) (payload : List Byte) : Prop :=
  exec i s = .next (u.withReply code status payload .nothing).arbitrate

/-- The row's outcome is a refusal: no block changes. -/
def Refuses (i : Instr) (s : State) (code : Byte) (status : Status) : Prop := Replies i s code s status []

/-- The event's outcome is the part `u`, and what the host transmitter then begins (R184). -/
def Becomes (i : Instr) (s u : State) : Prop := exec i s = .next u.arbitrate

/-! ### Element table (R2, R5) -/

/-- The settings pass R2, and the state is the one R5 requires of the accumulator. -/
def Fitting.lawful (f : Fitting) : Prop := f.settings.ok = true ∧ f.toAccount.stateOk = true

def State.elementsLawful (s : State) : Prop := ∀ i f, s.fitting? i = some f → f.lawful

/-! ### Transports (R76, R77, R79, R80) -/

/-- A FAILED sensor's transport is CLEAR, the good run is 0 in CLEAR and the over-limit run in SLIPPING, and the
window holds at most 64 validities. -/
def Transport.lawful (r : Transport) : Prop :=
  (r.sensor = .failed → r.slip = .clear) ∧ (r.slip = .clear → r.goodRun = 0) ∧
  (r.slip = .slipping → r.overRun = 0) ∧ r.window.length ≤ 64

def State.transportsLawful (s : State) : Prop := ∀ t, (s.transport t).lawful

/-! ### Limits (R48, R99, R183) -/

def State.limitsKept (s : State) : Prop :=
  s.line.used ≤ 2048 ∧ s.wear.ring.length ≤ 16 ∧ s.host.busy.length ≤ 4

/-! ### Items (R45) -/

/-- The sum of the route match counters, wrapping (R45). -/
def RouteMap.matched (m : RouteMap) : BitVec 32 := (tlist m.matchCounts).foldl (· + ·) 0

/-- R45, in wrapping arithmetic. -/
def State.itemsBalance (s : State) : Prop :=
  s.wear.received =
    s.wear.counted + s.wear.notCounted + s.wear.lost + BitVec.ofNat 32 s.line.items ∧
  s.wear.counted = s.routes.matched + s.routes.unrouted

/-! ### Conditions (R191) -/

/-- The latched bit of each condition alert is set whenever its condition holds. -/
def State.conditionsLatched (s : State) : Prop := s.conditionBits &&& ~~~s.alerts.latched = 0

/-! ### Holds (R107, R110, R112) -/

def SlotState.asks : SlotState → Bool
  | .pending | .sent => true
  | .free | .aborting => false

/-- The slot is busy with a request for the transport (R111). -/
def HoldUnit.busyWith (h : HoldUnit) (k t : Nat) : Prop :=
  (h.slot k).state ≠ .free ∧ (h.slot k).transport = some t

/-- R110, R112: the waiting list holds each WAITING transport once; an ASKING transport is named by a PENDING or
SENT slot and only such a transport is; an ABORTING slot names a CLEAR transport; at most one busy slot names a
transport. -/
def HoldUnit.lawful (h : HoldUnit) : Prop :=
  h.waiting.Nodup ∧
  (∀ t, t ∈ h.waiting ↔ t < 32 ∧ h.state t = .waiting) ∧
  (∀ t < 32, h.state t = .asking ↔ ∃ k < 4, h.busyWith k t ∧ (h.slot k).state.asks = true) ∧
  (∀ k < 4, ∀ t, h.busyWith k t → t < 32 ∧ ((h.slot k).state = .aborting → h.state t = .clear)) ∧
  (∀ j < 4, ∀ k < 4, ∀ t, h.busyWith j t → h.busyWith k t → j = k) ∧
  (∀ k < 4, (h.slot k).state ≠ .free → (h.slot k).transport ≠ none)

/-- R107: the head of the transmit list is being sent whenever there is one. -/
def HoldUnit.transmits (h : HoldUnit) : Prop := h.sending = true ↔ h.transmit ≠ []

/-! ### Plan (R142, R146) -/

/-- The entries assigned to a slot's window. -/
def PlanUnit.inWindow (p : PlanUnit) (k : Nat) : List PlanEntry := p.queue.filter fun e => e.window == some k

def costSum (q : List PlanEntry) : Nat := (q.map PlanEntry.cost).sum

/-- R142: used and pinned load are the costs of the entries assigned to the window, and within its capacity. -/
def PlanUnit.loadsLawful (p : PlanUnit) : Prop :=
  ∀ k w, p.window k = some w →
    w.used = costSum (p.inWindow k) ∧
    w.pinnedLoad = costSum ((p.inWindow k).filter PlanEntry.pinned) ∧
    w.used ≤ w.capacity

/-- R146, of the queue alone. -/
def PlanUnit.queueLawful (p : PlanUnit) : Prop :=
  p.queue.length ≤ 64 ∧ (p.queue.map PlanEntry.element).Nodup ∧
  ∀ e ∈ p.queue,
    (∀ k, e.window = some k → ∃ w, p.window k = some w) ∧
    (e.pinned = true → e.window ≠ none) ∧ (e.unplaced = true → e.window = none)

/-- R142, R146: and each entry names an assigned element with its current generation and cost. -/
def State.planLawful (s : State) : Prop :=
  s.plan.queueLawful ∧ s.plan.loadsLawful ∧
  ∀ e ∈ s.plan.queue,
    ∃ f, s.fitting? e.element = some f ∧ f.settings.cost = e.cost ∧
      (s.element e.element).generation = e.generation

end Sys2Proof.Machine
end

