-- ==== Sys2Proof/Certificates/Slice0/Obligations.lean ====
section
/-! DEFINITION. What is stated of the model: the rules of the manual on each command's result and what it leaves
as it was, on the shared operations, and the laws every step keeps. -/

section Statements

open Sys2Proof Sys2Proof.Machine

/-! ### Steps and rows -/

/-- A step executes the command at the front of the queue with the rest of the queue; an empty queue idles
(the model's choice, notes/assumptions/10.md). -/
def Obligations.StepExecutesFront : Prop :=
  (∀ (s : State) c rest, s.pending = c :: rest → step s = exec c { s with pending := rest }) ∧
  ∀ (s : State), s.pending = [] → step s = .next s

/-- A part without power does nothing but on POWER_ON (the model's choice, notes/assumptions/9.md), and the row of
a host request acts by where the host link stands (R182, R183; the model's reading of a row,
notes/assumptions/2.md). -/
def Obligations.RowsByPowerAndHand : Prop :=
  ∀ i (s : State),
    (s.powered = false → i ≠ .powerOn → exec i s = .next s) ∧
    (requestCommand i ≠ none → s.powered = true →
      (s.host.inHand = none → s.engine = .starting →
        Becomes i s
          { s with host := { s.host with
              inHand := some ⟨requestCode i, .ready ⟨requestCode i ||| 0x80, .starting, [], [], .nothing⟩⟩ } }) ∧
      (s.host.inHand = none → s.engine ≠ .starting →
        exec i s = exec i { s with host := { s.host with inHand := some ⟨requestCode i, .executing i⟩ } }) ∧
      (∀ h, s.host.inHand = some h → (∀ code, h ≠ ⟨code, .executing i⟩) →
        Becomes i s { s with host := s.host.complete s.engine (requestFrame i) }))

/-! ### The host link -/

/-- R179, R181: one byte in each receive state; the bytes of a whole frame, received from HUNTING, complete exactly
that frame; an abandoned frame is dropped. -/
def Obligations.HostBytes : Prop :=
  ∀ (s : State), s.powered = true →
    (∀ b,
      (s.host.rx = .hunting → b ≠ 0xA5 → Becomes (.hostByteReceived b) s s) ∧
      (s.host.rx = .hunting → b = 0xA5 →
        Becomes (.hostByteReceived b) s { s with host := { s.host with rx := .header } }) ∧
      (s.host.rx = .header → 1 ≤ b.toNat ∧ b.toNat ≤ 241 →
        Becomes (.hostByteReceived b) s { s with host := { s.host with rx := .payload b.toNat [] } }) ∧
      (s.host.rx = .header → b.toNat = 0 ∨ 242 ≤ b.toNat →
        Becomes (.hostByteReceived b) s { s with host := { s.host with rx := .hunting } }) ∧
      (∀ n stored, s.host.rx = .payload n stored → stored.length + 1 ≠ n →
        Becomes (.hostByteReceived b) s { s with host := { s.host with rx := .payload n (stored ++ [b]) } }) ∧
      (∀ n stored, s.host.rx = .payload n stored → stored.length + 1 = n →
        Becomes (.hostByteReceived b) s { s with host := { s.host with rx := .check (stored ++ [b]) none } }) ∧
      (∀ body, s.host.rx = .check body none →
        Becomes (.hostByteReceived b) s { s with host := { s.host with rx := .check body (some b) } }) ∧
      (∀ body low, s.host.rx = .check body (some low) →
        Becomes (.hostByteReceived b) s
          { s with host := HostLink.complete s.engine ⟨body, b ++ low⟩ { s.host with rx := .hunting } })) ∧
    (∀ body, s.host.rx = .hunting → 1 ≤ body.length → body.length ≤ 241 →
      Becomes (.hostFrameComplete (hostFrame body)) s
        { s with host := s.host.complete s.engine ⟨body, crc16 (u8 body.length ++ body)⟩ }) ∧
    Becomes .hostFrameAbandoned s { s with host := { s.host with rx := .hunting } }

/-- R182, R183: the four places of a complete frame; the tests of a taken frame, in order, and the code of each failure's
reply. -/
def Obligations.FramesTaken : Prop :=
  (∀ (h : HostLink) engine f,
     (h.inHand = none → h.complete engine f = { h with inHand := some (judge engine f) }) ∧
     (h.inHand ≠ none → h.held = none → h.complete engine f = { h with held := some f }) ∧
     (h.inHand ≠ none → h.held ≠ none → h.busy.length < 4 →
       h.complete engine f = { h with busy := h.busy ++ [f.body.headD 0] }) ∧
     (h.inHand ≠ none → h.held ≠ none → 4 ≤ h.busy.length → h.complete engine f = h)) ∧
  ∀ engine code payload check,
    let f : HostFrame := ⟨code :: payload, check⟩
    let errorCode : Byte := if code.msb = true ∨ code = 0x7F then 0x80 else code ||| 0x80
    let fails := fun (replyCode : Byte) status =>
      judge engine f = ⟨code, .ready ⟨replyCode, status, [], [], .nothing⟩⟩
    (hostCheck (code :: payload) ≠ check → fails 0x80 .badCheck) ∧
    (hostCheck (code :: payload) = check →
      (engine = .starting → fails errorCode .starting) ∧
      (engine ≠ .starting →
        (code.msb = true ∨ code = 0x7F ∨ decodeRequest (code.toNat % 64) payload = .unknownCommand →
          fails errorCode .unknownCommand) ∧
        (code.msb = false → code ≠ 0x7F →
          (decodeRequest (code.toNat % 64) payload = .badLength → fails (code ||| 0x80) .badLength) ∧
          (∀ i, decodeRequest (code.toNat % 64) payload = .request i →
            judge engine f = ⟨code, .executing i⟩))))

/-- R179, R180, R196: reading the payload of a request gives that request, whatever its fields carry. -/
def Obligations.PayloadReadsBack : Prop :=
  ∀ i command, i.wf = true → requestCommand i = some command →
    decodeRequest command (requestPayload i) = .request i

/-- R179, R181 to R183: a request's frame, with or without the summary flag, received by an idle part, puts that
request in hand. -/
def Obligations.RequestFrameDispatched : Prop :=
  ∀ i command (s : State) (summary : Bool), i.wf = true → requestCommand i = some command →
    s.powered = true → s.engine ≠ .starting → s.host.rx = .hunting → s.host.inHand = none →
    let code : Byte := BitVec.ofNat 8 (command + if summary then 64 else 0)
    Becomes (.hostFrameComplete (hostFrame (code :: requestPayload i))) s
      { s with host := { s.host with inHand := some ⟨code, .executing i⟩ } }

/-- R184, R194: what an idle transmitter begins. -/
def Obligations.TransmitterChoice : Prop :=
  ∀ (s : State),
    (s.host.tx ≠ none → s.arbitrate = s) ∧
    (s.host.tx = none →
      (∀ code rest, s.host.busy = code :: rest →
        s.arbitrate = { s with host := { s.host with busy := rest, tx := some (.busy code) } }) ∧
      (s.host.busy = [] →
        (∀ code r, s.host.inHand = some ⟨code, .ready r⟩ →
          s.arbitrate = { s with host := { s.host with inHand := some ⟨code, .sending r⟩, tx := some .reply } }) ∧
        ((∀ code r, s.host.inHand ≠ some ⟨code, .ready r⟩) →
          (∀ k < 19, s.alerts.marks.getLsbD k = true → (∀ j < k, s.alerts.marks.getLsbD j = false) →
            s.arbitrate =
              { s with
                host := { s.host with tx := some (.notice k (tget s.alerts.subjects k 0) s.clock) }
                alerts := { s.alerts with marks := s.alerts.marks &&& ~~~(BitVec.twoPow 19 k) } }) ∧
          (s.alerts.marks = 0 → s.arbitrate = s))))

/-- R179 to R184, R194, R196: the bytes of the frame being sent; and the last byte of a reply, of a BUSY reply and of
a notice. Whether a request that the end of a reply dispatches is complete when the transmitter next chooses is free,
for every schedule (the model's own field, notes/assumptions/2.md). That a record write in progress completes in the
step in which RESTART or WIPE begins its start-up is the model's choice (notes/assumptions/23.md). -/
def Obligations.FramesSent : Prop :=
  (∀ (h : HostLink),
    let frame := fun (body : List Byte) =>
      let check := crc16 (u8 body.length ++ body)
      [(0xA5 : Byte)] ++ u8 body.length ++ body ++ [check.setWidth 8, (check >>> 8).setWidth 8]
    (h.tx = none → h.sentFrame = none) ∧
    (∀ code : Byte, h.tx = some (.busy code) →
      h.sentFrame = some (frame [if code.msb = true ∨ code = 0x7F then 0x80 else code ||| 0x80, 0x19])) ∧
    (∀ code r, h.tx = some .reply → h.inHand = some ⟨code, .sending r⟩ →
      h.sentFrame = some (frame ([r.code] ++ u8 r.status.code ++ r.payload ++ r.summary))) ∧
    (∀ kind subject minute, h.tx = some (.notice kind subject minute) →
      h.sentFrame = some (frame ([0xFF] ++ u8 kind ++ u16 subject ++ u32 (minute.getD 4294967295))))) ∧
  ∀ (s : State), s.powered = true →
    (∀ code r, s.host.tx = some .reply → s.host.inHand = some ⟨code, .sending r⟩ →
      (r.after = .nothing → s.host.held = none →
        Becomes .hostReplySent s { s with host := { s.host with tx := none, inHand := none } }) ∧
      (∀ f, r.after = .nothing → s.host.held = some f →
        let taken : State :=
          { s with host := { s.host with tx := none, inHand := some (judge s.engine f), held := none } }
        let dispatched : State :=
          { taken with schedule := { s.schedule with prompts := s.schedule.prompts.tail } }
        ((∀ held i, judge s.engine f ≠ ⟨held, .executing i⟩) → Becomes .hostReplySent s taken) ∧
        (∀ held i, judge s.engine f = ⟨held, .executing i⟩ →
          (s.schedule.prompts.headD false = false → Becomes .hostReplySent s dispatched) ∧
          (s.schedule.prompts.headD false = true → exec .hostReplySent s = exec i dispatched))) ∧
      (r.after = .restart → Becomes .hostReplySent s (s.beginStartup s.committedStore false)) ∧
      (r.after = .wipe → Becomes .hostReplySent s (s.beginStartup s.committedStore true))) ∧
    (∀ code, s.host.tx = some (.busy code) →
      Becomes .busyReplySent s { s with host := { s.host with tx := none } }) ∧
    (∀ kind subject minute, s.host.tx = some (.notice kind subject minute) →
      Becomes .noticeSent s { s with host := { s.host with tx := none } })

/-! ### Requests on the part -/

/-- R23, R48, R49, R52, R53, R126, R172, R180, R185, R187, R188: the reads that carry no fields answer OK with their
fields in the rules' order, and change nothing; the bytes of those fields; and the summary. The widths of the counts of
STATUS, of READ WATCH and of READ HOLDS' two lists, and that failed so far is present only while WRITING, are read from
R180 and the rules' texts (the model's, notes/assumptions/14.md). No reply of READ SAVE STATUS falls between a record's
copy and its verification: the request stays in hand, the model's choice of how it waits (notes/assumptions/12.md). A
running slot timer's value, left free, lies within 1 and the milliseconds it was started with (the model's,
notes/assumptions/3.md). -/
def Obligations.PlainReads : Prop :=
  (∀ (s : State) code,
    (s.serving .status code →
      Replies .status s code s .ok
        (u8 s.engine.code ++ u8 s.wear.mode.code ++ minuteBytes s.clock ++ u8 s.options.intervalLength ++
          u8 s.timer.intervalCount ++ u16 s.line.used ++ u16 s.line.intake.length ++ u8 (s.line.countOf 0x11) ++
          u16 (s.line.countOf 0x12) ++ u16 (s.line.countOf 0x13) ++ u16 (s.line.countOf 0x14) ++
          u32 s.line.errors.toNat ++ u32 s.line.itemOverrun.toNat ++ u32 s.line.modeOverrun.toNat ++
          u32 s.line.tachOverrun.toNat ++ u32 s.line.jamOverrun.toNat ++ u32 s.line.strays.toNat ++
          u8 s.hold.transmit.length ++ u32 s.alerts.latched.toNat)) ∧
    (s.serving .readOptions code →
      let o := s.options
      Replies .readOptions s code s .ok
        (u8 o.intervalLength ++ u16 o.horizon ++ u8 o.companionPercent ++ u16 o.slipLimit ++ u8 o.slipSetCount ++
          u8 o.slipClearCount ++ u8 o.slipFactor ++ u16 o.minimumDrive ++ u16 o.answerTimeout ++ u8 o.deferral ++
          u8 (if o.autoSave then 1 else 0) ++ u32 s.alerts.mask.toNat)) ∧
    (s.serving .readWatch code →
      let entry := fun (e : WatchEntry) =>
        (match e.source with
          | .item serial => u8 0 ++ u32 serial
          | .run => u8 1
          | .jam => u8 2) ++ u32 e.units ++ u32 e.after
      Replies .readWatch s code s .ok
        (indexOrNone s.wear.watched ++ u8 s.wear.ring.length ++ s.wear.ring.reverse.flatMap entry)) ∧
    (s.serving .readCapture code →
      let armed := fun (t : Trigger) => u8 t.level.code ++ indexOrNone t.scope
      (s.wear.capture = .disarmed → Replies .readCapture s code s .ok (u8 0)) ∧
      (∀ t, s.wear.capture = .armed t → Replies .readCapture s code s .ok (u8 1 ++ armed t)) ∧
      (∀ t r, s.wear.capture = .filled t r →
        Replies .readCapture s code s .ok
          (u8 2 ++ armed t ++ u8 r.element ++ u8 r.level.code ++
            (match r.source with
              | .item serial destination thickness length =>
                  u8 0 ++ u32 serial ++ u16 destination ++ u8 thickness ++ u16 length
              | .run => u8 1
              | .jam => u8 2
              | .setting => u8 3
              | .assign => u8 4) ++
            u8 r.mode.code ++ minuteBytes r.minute ++ u32 r.after))) ∧
    (s.serving .readSaveStatus code →
      let reads := fun (progress cursor : Nat) failed =>
        Replies .readSaveStatus s code s .ok
          (u8 progress ++ u8 cursor ++ u8 (if s.ckpt.pending then 1 else 0) ++ u32 s.ckpt.sequence.toNat ++ failed ++
            u8 s.ckpt.lastFailed ++ u8 s.ckpt.outcome.code ++ u8 s.ckpt.stale ++ u8 s.ckpt.suspects)
      (s.ckpt.progress = .idle → reads 0 255 []) ∧
      (s.ckpt.progress = .due 0 → reads 1 240 (u8 s.ckpt.failedSoFar)) ∧
      (∀ i, s.ckpt.progress = .due (i + 1) → reads 1 i (u8 s.ckpt.failedSoFar)) ∧
      (s.ckpt.progress = .done → reads 2 255 []) ∧
      (s.ckpt.progress = .failed → reads 3 255 []) ∧
      (∀ copy, s.ckpt.progress = .writing copy → Becomes .readSaveStatus s s)) ∧
    (s.serving .readHolds code →
      let held := fun (x : HoldState) => match x with
        | .clear => u8 0
        | .waiting => u8 1
        | .asking => u8 2
        | .held => u8 3
        | .deferred countdown => u8 4 ++ u8 countdown
      let slot := fun k =>
        let v := s.hold.slot k
        u8 v.state.code ++ indexOrNone v.transport ++ u8 v.outcome.code ++
          (match v.timer with
            | none => u16 0
            | some started => u16 (timerLeft (s.freeCount + k) started))
      let entry := fun (begun : Bool) (e : TxEntry) => match e with
        | .request k t => u8 (if begun then 0xA1 else 0x21) ++ u8 k ++ u8 t
        | .release t => u8 (if begun then 0xA2 else 0x22) ++ u8 255 ++ u8 t
      Replies .readHolds s code { s with freeCount := s.freeCount + 4 } .ok
        ((tlist s.hold.states).flatMap held ++ slot 0 ++ slot 1 ++ slot 2 ++ slot 3 ++
          u8 s.hold.waiting.length ++ s.hold.waiting.flatMap u8 ++ u8 s.hold.transmit.length ++
          (s.hold.transmit.take 1).flatMap (entry s.hold.sending) ++
          (s.hold.transmit.drop 1).flatMap (entry false))) ∧
    s.summary = u8 s.engine.code ++ u8 s.wear.mode.code ++ u32 s.alerts.latched.toNat) ∧
  (∀ n,
    indexOrNone none = u8 255 ∧ indexOrNone (some n) = u8 n ∧
    minuteBytes none = u32 4294967295 ∧ minuteBytes (some n) = u32 n) ∧
  ([EngineState.starting, .stopped, .counting].map EngineState.code = [0, 1, 2] ∧
    [LineMode.idle, .sort, .test, .jog, .purge].map LineMode.code = [0, 1, 2, 3, 4] ∧
    [Level.advised, .due, .limit].map Level.code = [0, 1, 2] ∧
    [SlotState.free, .pending, .sent, .aborting].map SlotState.code = [0, 1, 2, 3] ∧
    [SlotOutcome.none, .granted, .refused, .lapsed, .aborted, .withdrawn].map SlotOutcome.code = [0, 1, 2, 3, 4, 5] ∧
    [StartOutcome.fresh, .restored, .defaults, .incomplete].map StartOutcome.code = [0, 1, 2, 3]) ∧
  ∀ sample started, 1 ≤ started → 1 ≤ timerLeft sample started ∧ timerLeft sample started ≤ started

/-- R23, R24, R69, R89, R90, R161, R162, R180: the reads that name a place: refused with BAD_VALUE out of range, else
answered OK with their fields, and their page where they list; nothing changes. The one-byte counts before the entries
of LIST ELEMENTS, READ INTERVAL COUNTS, READ PLAN and READ WINDOWS, the in-use flag of a window slot and the order of
the last sample's fields are read from R180 and the rules' texts (the model's, notes/assumptions/14.md); that a state
filter with bit 7 is out of range is the model's too (notes/assumptions/15.md). -/
def Obligations.IndexedReads : Prop :=
  (∀ (s : State) code n,
    let yes := fun (b : Bool) => u8 (if b then 1 else 0)
    let path := fun (p : List Nat) => u8 p.length ++ p.flatMap u8
    -- R23
    (s.serving (.readElement n) code →
      (239 < n → Refuses (.readElement n) s code .badValue) ∧
      (n ≤ 239 →
        let head := fun (state : Nat) => u8 n ++ u8 state ++ u16 (s.element n).generation.toNat
        ((s.element n).position = .vacant → Replies (.readElement n) s code s .ok (head 0)) ∧
        ((s.element n).position = .suspect → Replies (.readElement n) s code s .ok (head 1)) ∧
        (∀ f, (s.element n).position = .assigned f →
          let v := f.settings
          let m := f.milestones
          Replies (.readElement n) s code s .ok
            (head f.state.code ++
              (u8 v.kind.code ++ u8 v.transport ++ labelReply v.label ++ u8 v.weights.class0 ++ u8 v.weights.class1 ++
                u8 v.weights.class2 ++ u8 v.weights.class3 ++ u8 v.runWeight ++ u16 v.jamWeight ++ [v.modeSet] ++
                u32 v.advisory ++ u32 v.due ++ u32 v.limit ++ u16 v.quota ++ indexOrNone v.group ++ u8 v.cost ++
                u8 v.policy.code) ++
              (u32 f.accumulator ++ u16 f.breakInRemaining ++ u32 f.passages ++ u32 f.runMinutes ++
                u32 f.intervalWear ++ u8 f.intervals ++ f.history.flatMap u16) ++
              (u8 ((if m.advisory then 1 else 0) + (if m.due then 2 else 0) + (if m.limit then 4 else 0)) ++
                yes f.waived ++ f.projection.bytes))))) ∧
    -- R24
    (∀ filter transport, s.serving (.listElements n filter transport) code →
      let state := fun i => match (s.element i).position with
        | .vacant => 0
        | .suspect => 1
        | .assigned f => f.state.code
      let matching := fun i =>
        filter.getLsbD (state i) &&
          (transport == 255 || match s.fitting? i with | some f => f.settings.transport == transport | none => false)
      let page := ((List.range' n (240 - n)).filter matching).take 8
      let entry := fun i =>
        u8 i ++ u8 (state i) ++
          (match s.fitting? i with
            | some f =>
                u8 f.settings.kind.code ++ u8 f.settings.transport ++ labelReply f.settings.label ++
                  u32 f.accumulator ++ f.projection.bytes
            | none => [])
      let next := match page[7]? with
        | some i => if i < 239 then u8 (i + 1) else u8 255
        | none => u8 255
      (239 < n ∨ filter = 0 ∨ filter.msb = true ∨ (31 < transport ∧ transport ≠ 255) →
        Refuses (.listElements n filter transport) s code .badValue) ∧
      (n ≤ 239 → filter ≠ 0 → filter.msb = false → transport ≤ 31 ∨ transport = 255 →
        Replies (.listElements n filter transport) s code s .ok
          (u8 page.length ++ page.flatMap entry ++ next))) ∧
    -- R69
    (s.serving (.readRoute n) code →
      (n ≤ 31 →
        let r := s.routes.route n
        Replies (.readRoute n) s code s .ok
          (yes r.enabled ++ u16 r.pattern.toNat ++ u8 r.maskIndex ++ u16 (s.routes.mask r.maskIndex).toNat ++
            path r.path ++ u32 (s.routes.matchCount n).toNat)) ∧
      (n = 0x40 → Replies (.readRoute n) s code s .ok (path s.routes.commonPath)) ∧
      (n = 0x41 → Replies (.readRoute n) s code s .ok ((tlist s.routes.masks).flatMap fun v => u16 v.toNat)) ∧
      (31 < n → n ≠ 0x40 → n ≠ 0x41 → Refuses (.readRoute n) s code .badValue)) ∧
    -- R89
    (s.serving (.readTransport n) code →
      let r := s.transport n
      let last := match r.last with
        | none => u8 0
        | some ⟨drive, belt, .invalid⟩ => u8 1 ++ u16 drive ++ u16 belt
        | some ⟨drive, belt, .idle⟩ => u8 2 ++ u16 drive ++ u16 belt
        | some ⟨drive, belt, .evaluated perMille⟩ => u8 3 ++ u16 drive ++ u16 belt ++ u16 perMille
      let assigned := (List.range 240).countP fun i => match s.fitting? i with
        | some f => f.settings.transport == n
        | none => false
      (31 < n → Refuses (.readTransport n) s code .badValue) ∧
      (n ≤ 31 →
        Replies (.readTransport n) s code s .ok
          (u8 n ++ yes r.running ++ u8 r.slip.code ++ u8 r.overRun ++ u8 r.goodRun ++ u8 r.sensor.code ++
            u8 r.window.length ++ u8 (r.window.count false) ++ u16 r.validRun ++ last ++ u8 assigned))) ∧
    -- R90
    (∀ number, s.serving (.readIntervalCounts n number) code →
      let counts := fun (c : IntervalCounters) =>
        u16 c.items ++ u16 c.jams ++ u16 c.overLimit ++ u16 c.invalid ++ u16 c.runningMinutes
      let line := fun t => u8 t ++ counts (s.transport t).snapshot ++ counts (s.transport t).live
      (31 < n ∨ number < 1 ∨ 8 < number ∨ 32 < n + number →
        Refuses (.readIntervalCounts n number) s code .badValue) ∧
      (n ≤ 31 → 1 ≤ number → number ≤ 8 → n + number ≤ 32 →
        Replies (.readIntervalCounts n number) s code s .ok
          (yes s.snapshotTaken ++ u8 number ++ (List.range' n number).flatMap line))) ∧
    -- R161
    (s.serving (.readPlan n) code →
      let q := s.plan.queue
      let page := (q.zipIdx.drop n).take 8
      let entry := fun (x : PlanEntry × Nat) =>
        u8 x.2 ++ u8 x.1.element ++ u16 x.1.generation.toNat ++ x.1.due.bytes ++ u8 x.1.reason.code ++
          indexOrNone x.1.window ++ yes x.1.pinned ++ yes x.1.unplaced ++ u8 x.1.cost
      (63 < n → Refuses (.readPlan n) s code .badValue) ∧
      (n ≤ 63 →
        Replies (.readPlan n) s code s .ok
          (minuteBytes s.clock ++ u8 q.length ++ u8 (q.countP fun e => e.unplaced) ++ u8 page.length ++
            page.flatMap entry ++ u8 (if n + 8 < q.length then n + 8 else 255)))) ∧
    -- R162
    (s.serving (.readWindows n) code →
      let slots := List.range' n (min 4 (8 - n))
      let slot := fun k => match s.plan.window k with
        | none => u8 0
        | some w =>
            u8 1 ++ u32 w.start ++ u16 w.length ++ u32 (w.start + w.length) ++ u8 w.capacity ++ u8 w.used ++
              u8 w.pinnedLoad ++ u8 (s.plan.queue.countP fun e => e.window == some k)
      (7 < n → Refuses (.readWindows n) s code .badValue) ∧
      (n ≤ 7 →
        Replies (.readWindows n) s code s .ok
          (u8 slots.length ++ slots.flatMap slot ++ u8 (if n + 4 < 8 then n + 4 else 255))))) ∧
  (∀ l : List Byte, l.length ≤ 8 → labelReply l = u8 l.length ++ l ++ List.replicate (8 - l.length) 0) ∧
  (∀ minute,
    Projection.bytes (.minute minute) = u8 0 ++ u32 minute ∧ Projection.bytes .now = u8 1 ++ u32 0 ∧
    Projection.bytes .never = u8 2 ++ u32 0 ∧ Projection.bytes .unknown = u8 3 ++ u32 0) ∧
  ([AssignedState.breakIn, .service, .advised, .due, .limit].map AssignedState.code = [2, 3, 4, 5, 6] ∧
    [ElementKind.roller, .belt].map ElementKind.code = [0, 1] ∧
    [HoldPolicy.none, .hold].map HoldPolicy.code = [0, 1] ∧
    [SlipState.clear, .slipping].map SlipState.code = [0, 1] ∧
    [SensorState.good, .failed].map SensorState.code = [0, 1] ∧
    [Reason.horizon, .advised, .due, .limit, .companion].map Reason.code = [0, 1, 2, 3, 4])

/-- R132, R133. That the value is tested before the state is the model's choice (notes/assumptions/21.md). -/
def Obligations.SetClock : Prop :=
  ∀ (s : State) code v, s.serving (.setClock v) code →
    (4294967294 < v → Refuses (.setClock v) s code .badValue) ∧
    (v ≤ 4294967294 → s.clock ≠ none → s.engine = .counting → Refuses (.setClock v) s code .wrongState) ∧
    (v ≤ 4294967294 → s.clock = none ∨ s.engine ≠ .counting →
      Replies (.setClock v) s code
        (State.replan
          { s with
            clock := some v
            alerts := if s.clock = none then s.alerts.take (.conditionEnded .clockUnset) else s.alerts
            plan := s.plan.dropEnded v })
        .ok (u32 v))

/-- R170, R177, R178, R186: START, STOP, RESTART and WIPE by engine state; the start-up of RESTART and of WIPE follows
the last byte of the reply. -/
def Obligations.EngineRequests : Prop :=
  ∀ (s : State) code,
    (s.serving .start code →
      (s.engine = .counting → Refuses .start s code .wrongState) ∧
      (s.engine = .stopped → s.anySuspect = true → Refuses .start s code .elementState) ∧
      (s.engine = .stopped → s.anySuspect = false →
        Replies .start s code { s with engine := .counting } .ok [])) ∧
    (s.serving .stop code →
      (s.engine = .stopped → Refuses .stop s code .wrongState) ∧
      (s.engine = .counting →
        Replies .stop s code (State.triggerCheckpoint { s with engine := .stopped }) .ok [])) ∧
    (s.serving .restart code →
      exec .restart s = .next (s.withReply code .ok [] .restart).arbitrate) ∧
    (s.serving .wipe code →
      (s.engine = .stopped → exec .wipe s = .next (s.withReply code .started [] .wipe).arbitrate) ∧
      (s.engine ≠ .stopped → Refuses .wipe s code .wrongState))

/-- R130, R136, R188: SET OPTIONS replaces all eleven where every value is in its range; a changed interval length needs
STOPPED and restarts the intervals. A boundary not yet taken to its end is taken to it first (the model's choice,
notes/assumptions/5.md). -/
def Obligations.SetOptions : Prop :=
  (∀ (s : State) code fields, s.serving (.setOptions fields) code →
    (optionsOf? fields = none → Refuses (.setOptions fields) s code .badValue) ∧
    (∀ o, optionsOf? fields = some o → o.intervalLength ≠ s.options.intervalLength → s.engine ≠ .stopped →
      Refuses (.setOptions fields) s code .wrongState) ∧
    (∀ o, optionsOf? fields = some o → o.intervalLength = s.options.intervalLength →
      Replies (.setOptions fields) s code { s with options := o } .ok []) ∧
    (∀ o, optionsOf? fields = some o → o.intervalLength ≠ s.options.intervalLength → s.engine = .stopped →
      let ended := s.finishBoundary
      Replies (.setOptions fields) s code
        { ended with
          options := o
          timer := { ended.timer with intervalCount := 0 }
          elements := tmap (Element.onFitting fun f =>
            { f with
              history := List.replicate 16 0
              intervals := 0
              intervalWear := 0
              projection := if f.state = .due ∨ f.state = .limit then .now else .unknown }) ended.elements }
        .ok []) ∧
    (s.timer.boundary = none → s.timer.snapshot = false → s.finishBoundary = s)) ∧
  (∀ (fields : OptionFields) o,
    optionsOf? fields = some o ↔
      o.ok = true ∧ fields.autoSave ≤ 1 ∧
        o =
          { intervalLength := fields.intervalLength
            horizon := fields.horizon
            companionPercent := fields.companionPercent
            slipLimit := fields.slipLimit
            slipSetCount := fields.slipSetCount
            slipClearCount := fields.slipClearCount
            slipFactor := fields.slipFactor
            minimumDrive := fields.minimumDrive
            answerTimeout := fields.answerTimeout
            deferral := fields.deferral
            autoSave := decide (fields.autoSave = 1) }) ∧
  ∀ (o : Options),
    o.ok = true ↔
      o.intervalLength ∈ [5, 10, 15, 30, 60] ∧ 60 ≤ o.horizon ∧ o.horizon ≤ 43200 ∧ 50 ≤ o.companionPercent ∧
        o.companionPercent ≤ 100 ∧ 5 ≤ o.slipLimit ∧ o.slipLimit ≤ 500 ∧ 1 ≤ o.slipSetCount ∧ o.slipSetCount ≤ 15 ∧
        1 ≤ o.slipClearCount ∧ o.slipClearCount ≤ 63 ∧ 1 ≤ o.slipFactor ∧ o.slipFactor ≤ 4 ∧ 10 ≤ o.minimumDrive ∧
        o.minimumDrive ≤ 2000 ∧ 250 ≤ o.answerTimeout ∧ o.answerTimeout ≤ 10000 ∧ 1 ≤ o.deferral ∧ o.deferral ≤ 60

/-- R46, R70, R189: CLEAR COUNTS, and READ ROUTE COUNTS with and without its clear, which returns the values from
before it. That the count of ITEM records takes one byte is read from R180 and R97 (the model's,
notes/assumptions/14.md). -/
def Obligations.CountsCleared : Prop :=
  ∀ (s : State) code,
    let items : BitVec 32 := BitVec.ofNat 32 (s.line.intake.countP LineRecord.isItem)
    let wear := { s.wear with received := items, counted := 0, notCounted := 0, lost := 0 }
    let routes := { s.routes with matchCounts := Vector.replicate 32 0, unrouted := 0 }
    let accounts :=
      (tlist s.routes.matchCounts).flatMap (fun n => u32 n.toNat) ++ u32 s.routes.unrouted.toNat ++
        u32 s.wear.received.toNat ++ u32 s.wear.counted.toNat ++ u32 s.wear.notCounted.toNat ++
        u32 s.wear.lost.toNat ++ u8 (s.line.intake.countP LineRecord.isItem)
    (s.serving .clearCounts code →
      Replies .clearCounts s code
        { s with
          wear := wear
          routes := routes
          line := { s.line with
            errors := 0
            itemOverrun := 0
            modeOverrun := 0
            tachOverrun := 0
            jamOverrun := 0
            strays := 0 } }
        .ok []) ∧
    (s.serving (.readRouteCounts 0) code → Replies (.readRouteCounts 0) s code s .ok accounts) ∧
    (s.serving (.readRouteCounts 1) code →
      Replies (.readRouteCounts 1) s code { s with wear := wear, routes := routes } .ok accounts) ∧
    (∀ n, 1 < n → s.serving (.readRouteCounts n) code → Refuses (.readRouteCounts n) s code .badValue)

/-! ### Requests on elements -/

/-- R2, R4, R12 to R14: ASSIGN refuses by index, state and values in that order; an accepted one writes the record of
R13, and its evaluation hands on the milestones of R14; the values it accepts are those of R2. That a mode set with bits
5 to 7 is out of range, and that the characters of a label beyond its count are not read, is the model's reading
(notes/assumptions/15.md). -/
def Obligations.AssignElement : Prop :=
  (∀ (s : State) code n fields accumulator, s.serving (.assignElement n fields accumulator) code →
    (239 < n → Refuses (.assignElement n fields accumulator) s code .badValue) ∧
    (n ≤ 239 → s.fitting? n ≠ none → Refuses (.assignElement n fields accumulator) s code .elementState) ∧
    (n ≤ 239 → s.fitting? n = none → settingsOf? fields = none →
      Refuses (.assignElement n fields accumulator) s code .badValue) ∧
    (∀ v, n ≤ 239 → s.fitting? n = none → settingsOf? fields = some v →
      let breaksIn : Bool := 0 < v.quota ∧ accumulator < v.advisory
      let f : Fitting :=
        { settings := v
          state := if breaksIn then .breakIn else thresholdState accumulator v.advisory v.due v.limit
          accumulator := accumulator
          breakInRemaining := if breaksIn then v.quota else 0
          passages := 0
          runMinutes := 0
          history := List.replicate 16 0
          intervals := 0
          milestones := ⟨v.advisory ≤ accumulator, v.due ≤ accumulator, v.limit ≤ accumulator⟩
          waived := false
          intervalWear := 0
          projection := if v.due ≤ accumulator then .now else .unknown }
      let fitted : State :=
        { s with
          elements := tset s.elements n ⟨(s.element n).generation + 1, .assigned f⟩
          wear := { s.wear with ring := if s.wear.watched = some n then [] else s.wear.ring } }
      Replies (.assignElement n fields accumulator) s code
        (fitted.handOff ⟨n, .assign, s.clock⟩
          { fitting := f
            levels := [Level.advised, .due, .limit].filter fun l => v.threshold l ≤ accumulator
            moved := v.advisory ≤ accumulator
            projectionMoved := v.due ≤ accumulator })
        .ok (u8 n ++ u8 f.state.code ++ u16 ((s.element n).generation + 1).toNat))) ∧
  (∀ (fields : SettingFields) v,
    settingsOf? fields = some v ↔
      v.ok = true ∧ fields.kind ≤ 1 ∧ fields.label.count ≤ 8 ∧ (fields.group ≤ 63 ∨ fields.group = 255) ∧
        fields.policy ≤ 1 ∧
        v =
          { kind := if fields.kind = 1 then .belt else .roller
            transport := fields.transport
            label := fields.label.chars.take fields.label.count
            weights := fields.weights
            runWeight := fields.runWeight
            jamWeight := fields.jamWeight
            modeSet := fields.modeSet
            advisory := fields.advisory
            due := fields.due
            limit := fields.limit
            quota := fields.quota
            group := if fields.group = 255 then none else some fields.group
            cost := fields.cost
            policy := if fields.policy = 1 then .hold else .none }) ∧
  ∀ (v : Settings),
    v.ok = true ↔
      v.transport ≤ 31 ∧ v.label.length ≤ 8 ∧ (∀ c ∈ v.label, 32 ≤ c.toNat ∧ c.toNat ≤ 126) ∧
        v.modeSet ≠ 0 ∧ (∀ mode < 8, v.modeSet.getLsbD mode = true → 1 ≤ mode ∧ mode ≤ 4) ∧
        1 ≤ v.advisory ∧ v.advisory < v.due ∧ v.due < v.limit ∧ v.limit ≤ 4000000000 ∧
        (∀ g, v.group = some g → g ≤ 63) ∧ 1 ≤ v.cost ∧ v.cost ≤ 8

/-- R15: REPLACE starts the account from 0 with the same settings, removes the plan entry, empties a watched
element's ring, and re-evaluates the transport. -/
def Obligations.ReplaceElement : Prop :=
  ∀ (s : State) code n, s.serving (.replaceElement n) code →
    (239 < n → Refuses (.replaceElement n) s code .badValue) ∧
    (n ≤ 239 → s.fitting? n = none → Refuses (.replaceElement n) s code .elementState) ∧
    (∀ f, n ≤ 239 → s.fitting? n = some f →
      let g : Fitting :=
        { settings := f.settings
          state := if 0 < f.settings.quota then .breakIn else .service
          accumulator := 0
          breakInRemaining := f.settings.quota
          passages := 0
          runMinutes := 0
          history := List.replicate 16 0
          intervals := 0
          milestones := ⟨false, false, false⟩
          waived := false
          intervalWear := 0
          projection := .unknown }
      Replies (.replaceElement n) s code
        (State.reevaluate
          { s with
            elements := tset s.elements n ⟨(s.element n).generation + 1, .assigned g⟩
            wear := { s.wear with ring := if s.wear.watched = some n then [] else s.wear.ring }
            plan := (s.plan.removalNotice n).1
            alerts := s.alerts.takeAll (s.plan.removalNotice n).2 }
          f.settings.transport)
        .ok (u8 n ++ u8 g.state.code ++ u16 ((s.element n).generation + 1).toNat))

/-- R17: RETIRE empties the position and keeps its generation; of an assigned element the plan entry goes and the
transport is re-evaluated. -/
def Obligations.RetireElement : Prop :=
  ∀ (s : State) code n, s.serving (.retireElement n) code →
    let reply := u8 n ++ u16 (s.element n).generation.toNat
    let vacated : State :=
      { s with
        elements := tset s.elements n ⟨(s.element n).generation, .vacant⟩
        wear := { s.wear with ring := if s.wear.watched = some n then [] else s.wear.ring } }
    (239 < n → Refuses (.retireElement n) s code .badValue) ∧
    (n ≤ 239 → (s.element n).position = .vacant → Refuses (.retireElement n) s code .elementState) ∧
    (n ≤ 239 → (s.element n).position = .suspect → Replies (.retireElement n) s code vacated .ok reply) ∧
    (∀ f, n ≤ 239 → (s.element n).position = .assigned f →
      Replies (.retireElement n) s code
        (State.reevaluate
          { vacated with
            plan := (s.plan.removalNotice n).1
            alerts := s.alerts.takeAll (s.plan.removalNotice n).2 }
          f.settings.transport)
        .ok reply)

/-- R2, R19, R20: SET THRESHOLDS stores the three values, recomputes the state, settles the flags, recomputes the
projection in every case, and hands on what its evaluation gives. -/
def Obligations.SetThresholds : Prop :=
  (∀ (s : State) code n advisory due limit, s.serving (.setThresholds n advisory due limit) code →
    (239 < n → Refuses (.setThresholds n advisory due limit) s code .badValue) ∧
    (n ≤ 239 → s.fitting? n = none → Refuses (.setThresholds n advisory due limit) s code .elementState) ∧
    (∀ f, n ≤ 239 → s.fitting? n = some f →
      (f.state = .limit → Refuses (.setThresholds n advisory due limit) s code .elementState) ∧
      (f.state ≠ .limit → thresholdsOk advisory due limit = false →
        Refuses (.setThresholds n advisory due limit) s code .badValue) ∧
      (f.state ≠ .limit → thresholdsOk advisory due limit = true →
        let stays : Bool := f.state = .breakIn ∧ f.accumulator < advisory
        let v : Settings := { f.settings with advisory := advisory, due := due, limit := limit }
        let stored : Fitting :=
          { f with
            settings := v
            state := if stays then .breakIn else thresholdState f.accumulator advisory due limit
            breakInRemaining := if stays then f.breakInRemaining else 0
            milestones := ⟨advisory ≤ f.accumulator, due ≤ f.accumulator, limit ≤ f.accumulator⟩ }
        let g : Fitting := { stored with projection := stored.projected s.options.intervalLength s.clock }
        Replies (.setThresholds n advisory due limit) s code
          (s.handOff ⟨n, .setting, s.clock⟩
            { fitting := g
              levels := [Level.advised, .due, .limit].filter fun l =>
                v.threshold l ≤ f.accumulator && !f.milestones.reported l
              moved := g.state ≠ f.state
              projectionMoved := g.projection ≠ f.projection })
          .ok (u8 n ++ u8 g.state.code ++ g.projection.bytes)))) ∧
  ∀ advisory due limit,
    thresholdsOk advisory due limit = true ↔ 1 ≤ advisory ∧ advisory < due ∧ due < limit ∧ limit ≤ 4000000000

/-- R2, R21, R22: SET WEIGHTS stores its eight settings in any assigned state, where they pass R2; a changed cost goes
to the plan unit, and the transport is re-evaluated. That a mode set with bits 5 to 7 is out of range, and that the
characters of a label beyond its count are not read, is the model's reading (notes/assumptions/15.md). -/
def Obligations.SetWeights : Prop :=
  (∀ (s : State) code n fields, s.serving (.setWeights n fields) code →
    (239 < n → Refuses (.setWeights n fields) s code .badValue) ∧
    (n ≤ 239 → s.fitting? n = none → Refuses (.setWeights n fields) s code .elementState) ∧
    (∀ f, n ≤ 239 → s.fitting? n = some f → weightsOf? fields f.settings = none →
      Refuses (.setWeights n fields) s code .badValue) ∧
    (∀ f v, n ≤ 239 → s.fitting? n = some f → weightsOf? fields f.settings = some v →
      let stored : State :=
        { s with
          elements := tset s.elements n ⟨(s.element n).generation, .assigned { f with settings := v }⟩ }
      (v.cost = f.settings.cost →
        Replies (.setWeights n fields) s code (stored.reevaluate f.settings.transport) .ok (u8 n)) ∧
      (v.cost ≠ f.settings.cost →
        Replies (.setWeights n fields) s code
          (State.reevaluate
            { stored with
              plan := (s.plan.costNotice n v.cost).1
              alerts := s.alerts.takeAll (s.plan.costNotice n v.cost).2 }
            f.settings.transport)
          .ok (u8 n)))) ∧
  ∀ (fields : WeightFields) old v,
    let label := fields.label.chars.take fields.label.count
    weightsOf? fields old = some v ↔
      fields.modeSet ≠ 0 ∧ (∀ mode < 8, fields.modeSet.getLsbD mode = true → 1 ≤ mode ∧ mode ≤ 4) ∧
        (fields.group ≤ 63 ∨ fields.group = 255) ∧ 1 ≤ fields.cost ∧ fields.cost ≤ 8 ∧ fields.policy ≤ 1 ∧
        fields.label.count ≤ 8 ∧ (∀ c ∈ label, 32 ≤ c.toNat ∧ c.toNat ≤ 126) ∧
        v =
          { old with
            weights := fields.weights
            runWeight := fields.runWeight
            jamWeight := fields.jamWeight
            modeSet := fields.modeSet
            group := if fields.group = 255 then none else some fields.group
            cost := fields.cost
            policy := if fields.policy = 1 then .hold else .none
            label := label }

/-! ### Requests on the wear engine and the route map -/

/-- R47, R50: SET WATCH and ARM CAPTURE. -/
def Obligations.WatchAndCapture : Prop :=
  ∀ (s : State) code n,
    (s.serving (.setWatch n) code →
      (239 < n → n ≠ 255 → Refuses (.setWatch n) s code .badValue) ∧
      (n ≤ 239 →
        Replies (.setWatch n) s code { s with wear := { s.wear with watched := some n, ring := [] } } .ok (u8 n)) ∧
      (n = 255 →
        Replies (.setWatch n) s code { s with wear := { s.wear with watched := none, ring := [] } } .ok (u8 255))) ∧
    (∀ level, s.serving (.armCapture level n) code →
      (2 < level ∨ (239 < n ∧ n ≠ 255) → Refuses (.armCapture level n) s code .badValue) ∧
      (∀ l, levelOf? level = some l → n ≤ 239 →
        Replies (.armCapture level n) s code
          { s with wear := { s.wear with capture := .armed ⟨l, some n⟩ } } .ok []) ∧
      (∀ l, levelOf? level = some l → n = 255 →
        Replies (.armCapture level n) s code
          { s with wear := { s.wear with capture := .armed ⟨l, none⟩ } } .ok []))

/-- R63 to R67: the four edits: refused in COUNTING, refused with BAD_VALUE out of range, else replacing what they
name and nothing else. -/
def Obligations.RouteEdits : Prop :=
  ∀ (s : State) code n,
    (∀ value, s.serving (.setMask n value) code →
      (s.engine = .counting → Refuses (.setMask n value) s code .wrongState) ∧
      (s.engine ≠ .counting → 7 < n → Refuses (.setMask n value) s code .badValue) ∧
      (s.engine ≠ .counting → n ≤ 7 →
        Replies (.setMask n value) s code
          { s with routes := { s.routes with masks := tset s.routes.masks n value } } .ok (u8 n))) ∧
    (∀ enabled pattern maskIndex path, s.serving (.setRoute n enabled pattern maskIndex path) code →
      let defined : Route := ⟨decide (enabled = 1), pattern, maskIndex, path⟩
      (s.engine = .counting → Refuses (.setRoute n enabled pattern maskIndex path) s code .wrongState) ∧
      (s.engine ≠ .counting →
        31 < n ∨ 1 < enabled ∨ 7 < maskIndex ∨ 16 < path.length ∨ (∃ i ∈ path, 239 < i) →
        Refuses (.setRoute n enabled pattern maskIndex path) s code .badValue) ∧
      (s.engine ≠ .counting →
        n ≤ 31 → enabled ≤ 1 → maskIndex ≤ 7 → path.length ≤ 16 → (∀ i ∈ path, i ≤ 239) →
        Replies (.setRoute n enabled pattern maskIndex path) s code
          { s with routes := { s.routes with routes := tset s.routes.routes n defined } } .ok (u8 n))) ∧
    (s.serving (.clearRoute n) code →
      (s.engine = .counting → Refuses (.clearRoute n) s code .wrongState) ∧
      (s.engine ≠ .counting → 31 < n → Refuses (.clearRoute n) s code .badValue) ∧
      (s.engine ≠ .counting → n ≤ 31 →
        Replies (.clearRoute n) s code
          { s with routes := { s.routes with routes := tset s.routes.routes n ⟨false, 0, 0, []⟩ } } .ok (u8 n))) ∧
    (∀ path, s.serving (.setCommonPath path) code →
      (s.engine = .counting → Refuses (.setCommonPath path) s code .wrongState) ∧
      (s.engine ≠ .counting → 16 < path.length ∨ (∃ i ∈ path, 239 < i) →
        Refuses (.setCommonPath path) s code .badValue) ∧
      (s.engine ≠ .counting → path.length ≤ 16 → (∀ i ∈ path, i ≤ 239) →
        Replies (.setCommonPath path) s code
          { s with routes := { s.routes with commonPath := path } } .ok (u8 path.length)))

/-! ### Requests on holds -/

/-- R123 to R125: WAIVE HOLD, ABORT HOLD and RELEASE HOLD; a waiver of a transport covers every LIMIT element of it, and
nothing else of the table, and the wish is then absent. That the number of elements waived counts every LIMIT element
of the transport is the model's reading (notes/assumptions/16.md). -/
def Obligations.HoldRequests : Prop :=
  (∀ (s : State) code,
     (∀ n setting, s.serving (.waiveHold n setting) code →
       (239 < n → Refuses (.waiveHold n setting) s code .badValue) ∧
       (n ≤ 239 → (∀ f, s.fitting? n = some f → f.state ≠ .limit) →
         Refuses (.waiveHold n setting) s code .elementState) ∧
       (∀ f, n ≤ 239 → s.fitting? n = some f → f.state = .limit →
         let waived : Element := ⟨(s.element n).generation, .assigned { f with waived := decide (setting = 1) }⟩
         (1 < setting → Refuses (.waiveHold n setting) s code .badValue) ∧
         (setting ≤ 1 →
           Replies (.waiveHold n setting) s code
             (State.reevaluate { s with elements := tset s.elements n waived } f.settings.transport)
             .ok (u8 n ++ u8 setting)))) ∧
     (∀ k, s.serving (.abortHold k) code →
       (3 < k → Refuses (.abortHold k) s code .badValue) ∧
       (k ≤ 3 → (s.hold.slot k).state = .free ∨ (s.hold.slot k).state = .aborting →
         Refuses (.abortHold k) s code .notFound) ∧
       (∀ t, k ≤ 3 → (s.hold.slot k).state.asks = true → (s.hold.slot k).transport = some t →
         let left : SlotState :=
           if (s.hold.slot k).state = .pending ∧ s.hold.removal (.request k t) = .removed then .free else .aborting
         Replies (.abortHold k) s code
           (State.reevaluate
             (State.waiveTransport { s with hold := s.hold.giveUp s.arbiterOn k t .aborted } t) t)
           .ok (u8 k ++ u8 t ++ u8 left.code ++ u8 (s.limitCount t)))) ∧
     (∀ t, s.serving (.releaseHold t) code →
       (31 < t → Refuses (.releaseHold t) s code .badValue) ∧
       (t ≤ 31 →
         Replies (.releaseHold t) s code ((s.waiveTransport t).reevaluate t) .ok
           (u8 t ++ u8 (((s.waiveTransport t).reevaluate t).hold.state t).code ++ u8 (s.limitCount t))))) ∧
  ∀ (s : State) t,
    (∀ i f, s.fitting? i = some f →
      (s.waiveTransport t).fitting? i =
        some (if f.state = .limit ∧ f.settings.transport = t then { f with waived := true } else f)) ∧
    (∀ i, s.fitting? i = none → (s.waiveTransport t).element i = s.element i) ∧
    (s.waiveTransport t).wish t = false

/-! ### Requests on the plan -/

/-- R143, R144: ADD WINDOW and REMOVE WINDOW. -/
def Obligations.WindowRequests : Prop :=
  ∀ (s : State) code,
    (∀ startAt length capacity, s.serving (.addWindow startAt length capacity) code →
      (s.clock = none → Refuses (.addWindow startAt length capacity) s code .clockUnset) ∧
      (∀ c, s.clock = some c →
        length < 15 ∨ 1440 < length ∨ capacity < 1 ∨ 32 < capacity ∨ 4294967294 < startAt + length ∨
          startAt + length ≤ c →
        Refuses (.addWindow startAt length capacity) s code .badValue) ∧
      (∀ c, s.clock = some c → 15 ≤ length → length ≤ 1440 → 1 ≤ capacity → capacity ≤ 32 →
        startAt + length ≤ 4294967294 → c < startAt + length →
        ((∀ k < 8, s.plan.window k ≠ none) → Refuses (.addWindow startAt length capacity) s code .noRoom) ∧
        (∀ k < 8, s.plan.window k = none → (∀ j < k, s.plan.window j ≠ none) →
          let windows := tset s.plan.windows k (some ⟨startAt, length, capacity, 0, 0⟩)
          Replies (.addWindow startAt length capacity) s code
            (State.replan { s with plan := { s.plan with windows := windows } }) .ok (u8 k)))) ∧
    (∀ k, s.serving (.removeWindow k) code →
      (7 < k → Refuses (.removeWindow k) s code .badValue) ∧
      (k ≤ 7 → s.plan.window k = none → Refuses (.removeWindow k) s code .notFound) ∧
      (∀ w, k ≤ 7 → s.plan.window k = some w →
        let left : PlanUnit :=
          { windows := tset s.plan.windows k none
            queue := s.plan.queue.map fun e =>
              if e.window = some k then { e with window := none, pinned := false } else e }
        Replies (.removeWindow k) s code (State.replan { s with plan := left }) .ok
          (u8 k ++ u8 (s.plan.inWindow k).length)))

/-- R158 to R160: PIN, UNPIN and REPLAN, with what an accepted PIN and UNPIN do to the plan before their replan. That
an element pinned elsewhere is tested against the window alone is the model's reading (notes/assumptions/20.md), and
that the queue is put in order at the clock as PIN is taken is its choice (notes/assumptions/22.md). -/
def Obligations.PinRequests : Prop :=
  (∀ (s : State) code,
    (∀ i k, s.serving (.pin i k) code →
      (239 < i ∨ 7 < k → Refuses (.pin i k) s code .badValue) ∧
      (i ≤ 239 → k ≤ 7 → s.clock = none → Refuses (.pin i k) s code .clockUnset) ∧
      (i ≤ 239 → k ≤ 7 → s.clock ≠ none → s.fitting? i = none → Refuses (.pin i k) s code .elementState) ∧
      (i ≤ 239 → k ≤ 7 → s.clock ≠ none → s.fitting? i ≠ none → s.plan.window k = none →
        Refuses (.pin i k) s code .notFound) ∧
      (∀ c f w, i ≤ 239 → k ≤ 7 → s.clock = some c → s.fitting? i = some f → s.plan.window k = some w →
        let entry : PlanEntry :=
          { element := i
            generation := (s.element i).generation
            due := f.projection
            reason := f.state.reason?.getD .horizon
            window := none
            pinned := false
            unplaced := false
            cost := f.settings.cost }
        let accepted :=
          Replies (.pin i k) s code
            (State.replan
              { s with
                plan := (s.plan.pin c entry k).1
                alerts := s.alerts.takeAll (s.plan.pin c entry k).2 })
            .ok (u8 i ++ u8 k)
        (s.plan.pinnedEntry? i = none →
          w.capacity < w.pinnedLoad + f.settings.cost ∨ 64 ≤ s.plan.pinCount →
          Refuses (.pin i k) s code .noRoom) ∧
        (s.plan.pinnedEntry? i = none → w.pinnedLoad + f.settings.cost ≤ w.capacity → s.plan.pinCount < 64 →
          accepted) ∧
        (∀ e, s.plan.pinnedEntry? i = some e →
          (e.window = some k ∨ w.pinnedLoad + f.settings.cost ≤ w.capacity → accepted) ∧
          (e.window ≠ some k → w.capacity < w.pinnedLoad + f.settings.cost →
            Refuses (.pin i k) s code .noRoom)))) ∧
    (∀ i, s.serving (.unpin i) code →
      (239 < i → Refuses (.unpin i) s code .badValue) ∧
      (i ≤ 239 → s.plan.pinnedEntry? i = none → Refuses (.unpin i) s code .notFound) ∧
      (∀ e, i ≤ 239 → s.plan.pinnedEntry? i = some e →
        let unpinned : PlanUnit :=
          { windows := match e.window with
              | some k => onWindow (fun w => { w with pinnedLoad := w.pinnedLoad - e.cost }) s.plan.windows k
              | none => s.plan.windows
            queue := s.plan.queue.map fun x => if x.element = e.element then { x with pinned := false } else x }
        Replies (.unpin i) s code (State.replan { s with plan := unpinned }) .ok (u8 i))) ∧
    (s.serving .replan code →
      Replies .replan s code s.replan .ok
        (u8 s.replan.plan.queue.length ++ u8 (s.replan.plan.queue.countP fun e => e.window.isSome) ++
          u8 (s.replan.plan.queue.countP fun e => e.unplaced) ++
          u8 (s.replan.plan.queue.countP fun e => e.window.isNone && !e.unplaced) ++ u8 s.replanOf.cut))) ∧
  ∀ (p : PlanUnit) c (e : PlanEntry) k,
    let ordered : PlanUnit := { p with queue := orderEntries c p.queue }
    let pinnedTo := fun (x : PlanEntry) => { x with window := some k, pinned := true, unplaced := false }
    -- pinned, charged for `cost` once the unpinned entries of the window have made room, latest first
    let pins := fun (seated : PlanUnit) cost displaced =>
      let others := seated.queue.reverse.filter fun x => !x.pinned && x.window == some k
      let roomy := makeRoom k cost seated others
      let charge := fun (w : Window) => { w with used := w.used + cost, pinnedLoad := w.pinnedLoad + cost }
      let q : PlanUnit := { roomy with windows := onWindow charge roomy.windows k }
      p.pin c e k =
        (q, displaced ++
          if p.queue.any (fun x => x.unplaced) && !q.queue.any (fun x => x.unplaced) then
            [.conditionEnded .planUnplaced]
          else [])
    (∀ old, ordered.queue.find? (fun x => x.element == e.element) = some old →
      pins
        { windows := old.refunded p.windows
          queue := ordered.queue.map fun x => if x.element = e.element then pinnedTo x else x }
        old.cost []) ∧
    (ordered.queue.find? (fun x => x.element == e.element) = none →
      (p.queue.length < 64 → pins { p with queue := orderEntries c (pinnedTo e :: ordered.queue) } e.cost []) ∧
      (∀ last, 64 ≤ p.queue.length →
        (orderEntries c ordered.queue).reverse.find? (fun x => !x.pinned) = some last →
        pins
          { windows := last.refunded p.windows
            queue := orderEntries c
              (pinnedTo e :: ordered.queue.filter fun x => x.element ≠ last.element) }
          e.cost [.raised .planFull last.element])) ∧
    (∀ cost, makeRoom k cost p [] = p) ∧
    (∀ cost x rest,
      (∀ w, p.window k = some w → w.capacity - w.used < cost →
        makeRoom k cost p (x :: rest) =
          makeRoom k cost
            { windows := x.refunded p.windows
              queue := p.queue.map fun y =>
                if y.element = x.element then { y with window := none, pinned := false } else y }
            rest) ∧
      ((∀ w, p.window k = some w → cost ≤ w.capacity - w.used) →
        makeRoom k cost p (x :: rest) = makeRoom k cost p rest)) ∧
    (e.window = none → e.refunded p.windows = p.windows) ∧
    (∀ j, e.window = some j →
      e.refunded p.windows = onWindow (fun w =>
        { w with
          used := w.used - e.cost
          pinnedLoad := if e.pinned then w.pinnedLoad - e.cost else w.pinnedLoad }) p.windows j) ∧
    (∀ g : Window → Window, ∀ j, onWindow g p.windows j = tset p.windows j ((p.window j).map g))

/-- R147, R148, R151: a replan changes the plan unit and the alert latch alone, and leaves an empty queue with the clock
unset; the order of the queue; and the placement of one entry: one not pinned and not UNKNOWN takes the first window,
by start and then slot, that takes it, and is unplaced where none does. -/
def Obligations.PlanRebuilt : Prop :=
  (∀ (s : State),
     { s.replan with plan := s.plan, alerts := s.alerts } = s ∧
     s.replan.alerts.mask = s.alerts.mask ∧
     (s.clock = none →
       s.replan.plan.queue = [] ∧ s.replanOf.cut = 0 ∧
       s.replan.alerts =
         if s.plan.queue.any (fun e => e.unplaced) then s.alerts.take (.conditionEnded .planUnplaced)
         else s.alerts)) ∧
  (∀ c q, (orderEntries c q).Perm q ∧ (orderEntries c q).Pairwise fun a b => b.before c a = false) ∧
  (∀ c (a b : PlanEntry),
    let minute := fun (d : Projection) => match d with
      | .minute m => some m
      | .now => some c
      | .never => none
      | .unknown => none
    (∀ m n, minute a.due = some m → minute b.due = some n →
      (a.before c b = true ↔ m < n ∨ m = n ∧ a.element < b.element)) ∧
    (∀ m, minute a.due = some m → b.due = .never ∨ b.due = .unknown → a.before c b = true ∧ b.before c a = false) ∧
    (a.due = .never → b.due = .unknown → a.before c b = true ∧ b.before c a = false) ∧
    (a.due = .never ∧ b.due = .never ∨ a.due = .unknown ∧ b.due = .unknown →
      (a.before c b = true ↔ a.element < b.element))) ∧
  (∀ c (e : PlanEntry) (w : Window),
    w.takes c e = true ↔
      c < w.start + w.length ∧
      (e.due = .now ∨ e.due = .never ∨ ∃ m, e.due = .minute m ∧ w.start ≤ m) ∧
      e.cost ≤ w.capacity - w.used) ∧
  ∀ c (ws : Vector (Option Window) 8) e,
    (e.pinned = true ∨ e.due = .unknown → placeEntry c ws e = (ws, e)) ∧
    (e.pinned = false → e.due ≠ .unknown →
      (∀ k w, tget ws k none = some w → w.takes c e = true →
        (∀ j v, tget ws j none = some v → v.takes c e = true →
          w.start < v.start ∨ (w.start = v.start ∧ k ≤ j)) →
        placeEntry c ws e =
          (tset ws k (some { w with used := w.used + e.cost }), { e with window := some k })) ∧
      ((∀ k w, tget ws k none = some w → w.takes c e = false) →
        placeEntry c ws e = (ws, { e with unplaced := true })))

/-- R149 to R153: a replan with the clock set: it expires windows, gathers the candidates in order, keeps the pinned
ones and others up to 64 in all and cuts the rest, charges the pins, places the others in queue order, pulls in
companions of the entries that have windows, and settles PLAN_UNPLACED. -/
def Obligations.ReplanSteps : Prop :=
  (∀ (s : State) c, s.clock = some c →
    let ended := fun (e : PlanEntry) => match e.window.bind s.plan.window with
      | some w => decide (w.start + w.length ≤ c)
      | none => false
    let expired := s.plan.queue.map fun e => if ended e then { e with window := none, pinned := false } else e
    let open? := fun (x : Option Window) => x.filter fun w => !decide (w.start + w.length ≤ c)
    let zeroed := fun (x : Option Window) => x.map fun w => { w with used := 0, pinnedLoad := 0 }
    let order := candidates c s.options.horizon s.elements expired
    let pins := order.filter fun e => e.pinned
    let others := order.filter fun e => !e.pinned
    let queue := orderEntries c (pins ++ others.take (64 - pins.length))
    let placed := placeAll c (chargePins queue (tmap zeroed (tmap open? s.plan.windows))) queue
    let built := placed.queue.foldl (companionsOf c s.options.companionPercent s.elements) placed
    let held := s.plan.queue.any fun e => e.unplaced
    let cut := others.drop (64 - pins.length)
    s.replanOf.cut = cut.length ∧
    s.replan =
      { s with
        plan := built
        alerts := s.alerts.takeAll
          ((s.plan.queue.filter ended).map (fun e => .raised .workMissed e.element) ++
            (match cut with
              | [] => []
              | e :: _ => [.raised .planFull e.element]) ++
            (match built.queue.find? (fun e => e.unplaced) with
              | some e => [.conditionSet .planUnplaced e.element (!held)]
              | none => if held then [.conditionEnded .planUnplaced] else [])) }) ∧
  (∀ c horizon (elements : Vector Element 240) old,
    candidates c horizon elements old =
      orderEntries c ((List.range 240).filterMap fun i =>
        match tget elements i .vacant with
        | ⟨generation, .assigned f⟩ =>
            let pin := old.find? fun q => q.pinned && q.element == i
            let due := match f.projection with
              | .minute m => decide (m ≤ c + horizon)
              | .now | .never | .unknown => false
            let reason : Option Reason := match f.state with
              | .advised => some .advised
              | .due => some .due
              | .limit => some .limit
              | .breakIn | .service => if due || pin.isSome then some .horizon else none
            reason.map fun reason =>
              { element := i
                generation := generation
                due := f.projection
                reason := reason
                window := pin.bind fun q => q.window
                pinned := pin.isSome
                unplaced := false
                cost := f.settings.cost }
        | ⟨_, .vacant⟩ => none
        | ⟨_, .suspect⟩ => none)) ∧
  (∀ (ws : Vector (Option Window) 8) (e : PlanEntry) rest,
    chargePins [] ws = ws ∧
    (∀ k, e.pinned = true → e.window = some k →
      chargePins (e :: rest) ws =
        chargePins rest (tset ws k ((tget ws k none).map fun w =>
          { w with used := w.used + e.cost, pinnedLoad := w.pinnedLoad + e.cost }))) ∧
    (e.pinned = false ∨ e.window = none → chargePins (e :: rest) ws = chargePins rest ws)) ∧
  (∀ c (ws : Vector (Option Window) 8) (e : PlanEntry) rest,
    let after := placeAll c (placeEntry c ws e).1 rest
    placeAll c ws [] = ⟨ws, []⟩ ∧
    placeAll c ws (e :: rest) = { after with queue := (placeEntry c ws e).2 :: after.queue }) ∧
  ∀ c percent (elements : Vector Element 240) (p : PlanUnit) (e : PlanEntry),
    let groupOf := fun i => match (tget elements i .vacant).position with
      | .assigned f => f.settings.group
      | .vacant | .suspect => none
    (e.window = none ∨ groupOf e.element = none → companionsOf c percent elements p e = p) ∧
    (∀ k g, e.window = some k → groupOf e.element = some g →
      companionsOf c percent elements p e =
        ((List.range 240).filter fun i => groupOf i == some g).foldl
          (fun p i => addCompanion c percent k p (tget elements i .vacant, i)) p) ∧
    (∀ k i (x : Element) f, x.position = .assigned f →
      let joins := fun (w : Window) =>
        p.queue.all (fun q => q.element != i) = true ∧
        (f.state = .breakIn ∨ f.state = .service ∨ f.state = .advised) ∧
        percent * f.settings.due ≤ 100 * f.accumulator ∧ f.settings.cost ≤ w.capacity - w.used ∧
        p.queue.length < 64
      let companion : PlanEntry :=
        { element := i
          generation := x.generation
          due := f.projection
          reason := .companion
          window := some k
          pinned := false
          unplaced := false
          cost := f.settings.cost }
      (∀ w, p.window k = some w → joins w →
        addCompanion c percent k p (x, i) =
          { windows := tset p.windows k (some { w with used := w.used + f.settings.cost })
            queue := insertEntry c companion p.queue }) ∧
      ((∀ w, p.window k = some w → ¬joins w) → addCompanion c percent k p (x, i) = p)) ∧
    (∀ (x : PlanEntry) rest,
      insertEntry c e [] = [e] ∧
      insertEntry c e (x :: rest) = if e.before c x then e :: x :: rest else x :: insertEntry c e rest)

/-- R154 to R157: what each notice of the element table does to the plan. That an entry which leaves its window at a
cost notice takes the new cost at once is the model's reading (notes/assumptions/17.md). -/
def Obligations.PlanNotices : Prop :=
  ∀ (p : PlanUnit),
    let entryOf := fun (i : Nat) => p.queue.find? fun e => e.element == i
    let updated := fun (i : Nat) (g : PlanEntry → PlanEntry) => p.queue.map fun e => if e.element = i then g e else e
    let without := fun (i : Nat) => p.queue.filter fun e => e.element ≠ i
    let settled := fun (queue : List PlanEntry) =>
      if p.queue.any (fun e => e.unplaced) && !queue.any (fun e => e.unplaced) then
        [AlertEvent.conditionEnded .planUnplaced]
      else []
    (∀ n, p.milestoneNotice none n = (p, [])) ∧
    (∀ c (n : MilestoneNotice),
      let entry : PlanEntry :=
        { element := n.element
          generation := n.generation
          due := n.due
          reason := n.reason
          window := none
          pinned := false
          unplaced := false
          cost := n.cost }
      let last? := (orderEntries c p.queue).reverse.find? fun e => !e.pinned
      (entryOf n.element ≠ none →
        p.milestoneNotice (some c) n =
          ({ p with
             queue := orderEntries c (updated n.element fun e =>
               { e with reason := n.reason, generation := n.generation, due := n.due }) }, [])) ∧
      (entryOf n.element = none → p.queue.length < 64 →
        p.milestoneNotice (some c) n = ({ p with queue := orderEntries c (entry :: p.queue) }, [])) ∧
      (∀ last, entryOf n.element = none → 64 ≤ p.queue.length → last? = some last → entry.before c last = true →
        p.milestoneNotice (some c) n =
          ({ windows := last.refunded p.windows, queue := orderEntries c (entry :: without last.element) },
            .raised .planFull last.element :: settled (without last.element))) ∧
      (entryOf n.element = none → 64 ≤ p.queue.length → (∀ last, last? = some last → entry.before c last = false) →
        p.milestoneNotice (some c) n = (p, [.raised .planFull n.element]))) ∧
    (∀ clock i due,
      (clock = none ∨ entryOf i = none → p.projectionNotice clock i due = p) ∧
      (∀ c, clock = some c → entryOf i ≠ none →
        p.projectionNotice clock i due =
          { p with queue := orderEntries c (updated i fun e => { e with due := due }) })) ∧
    (∀ i,
      (entryOf i = none → p.removalNotice i = (p, [])) ∧
      (∀ e, entryOf i = some e →
        p.removalNotice i = ({ windows := e.refunded p.windows, queue := without i }, settled (without i)))) ∧
    (∀ i cost,
      (entryOf i = none → p.costNotice i cost = (p, [])) ∧
      (∀ e, entryOf i = some e →
        (e.window = none →
          p.costNotice i cost = ({ p with queue := updated i fun e => { e with cost := cost } }, [])) ∧
        (∀ k w, e.window = some k → p.window k = some w →
          let load := if e.pinned then w.pinnedLoad - e.cost + cost else w.pinnedLoad
          (w.used - e.cost + cost ≤ w.capacity →
            p.costNotice i cost =
              ({ windows := tset p.windows k
                   (some { w with used := w.used - e.cost + cost, pinnedLoad := load })
                 queue := updated i fun e => { e with cost := cost } }, [])) ∧
          (w.capacity < w.used - e.cost + cost →
            p.costNotice i cost =
              ({ windows := e.refunded p.windows
                 queue := updated i fun e =>
                   { e with window := none, pinned := false, unplaced := true, cost := cost } },
                [.conditionSet .planUnplaced i (!p.queue.any fun e => e.unplaced)])))))

/-! ### Checkpoints and alerts -/

/-- R166, R167, R170, R171: SAVE starts a checkpoint, with a new sequence number and the header due first, or sets
pending while one is WRITING, whether a record is due or being written; and what a trigger does. -/
def Obligations.SaveStartsCheckpoint : Prop :=
  ∀ (s : State),
    let atRest := s.ckpt.progress = .idle ∨ s.ckpt.progress = .done ∨ s.ckpt.progress = .failed
    let waits : State := { s with ckpt := { s.ckpt with pending := true } }
    let answers := fun code cursor =>
      Replies .save s code waits .inProgress (u32 s.ckpt.sequence.toNat ++ u8 cursor)
    (∀ code, s.serving .save code →
      (atRest → Replies .save s code s.beginCheckpoint .started (u32 (s.ckpt.sequence + 1).toNat)) ∧
      (s.ckpt.progress = .due 0 → answers code 240) ∧
      (∀ i, s.ckpt.progress = .due (i + 1) → answers code i) ∧
      (∀ record, s.ckpt.progress = .writing (.header record) → answers code 240) ∧
      (∀ i record, s.ckpt.progress = .writing (.element i record) → answers code i)) ∧
    s.beginCheckpoint =
      { s with
        ckpt := { s.ckpt with
          sequence := s.ckpt.sequence + 1
          failedSoFar := 0
          firstFailed := none
          progress := .due 0 } } ∧
    (atRest → s.triggerCheckpoint = s.beginCheckpoint) ∧
    (¬atRest → s.triggerCheckpoint = waits)

/-- R164, R165, R167, R168: the record under the cursor is copied from the live state as its write begins, and written
and verified; then the next is due, and after element 239 the checkpoint ends, and a pending one starts. A record that
differs from its copy is counted, and the first such slot noted. Whether other events come between a record's copy and
its write and verification is free, for every schedule (the model's own field, notes/assumptions/4.md, 12.md). That the
row changes nothing where no checkpoint runs is the model's choice (notes/assumptions/10.md). -/
def Obligations.RecordWritten : Prop :=
  (∀ (s : State) result, s.powered = true →
    let begun : State := { s with schedule := { s.schedule with cuts := s.schedule.cuts.tail } }
    (∀ place, s.ckpt.progress = .due place →
      (s.cut = none →
        Becomes (.checkpointRecordWritten result) s (begun.finishRecord (s.recordAt place) result)) ∧
      (s.cut ≠ none →
        Becomes (.checkpointRecordWritten result) s
          { begun with ckpt := { s.ckpt with progress := .writing (s.recordAt place) } })) ∧
    (∀ copy, s.ckpt.progress = .writing copy →
      Becomes (.checkpointRecordWritten result) s (s.finishRecord copy result)) ∧
    (s.ckpt.progress = .idle ∨ s.ckpt.progress = .done ∨ s.ckpt.progress = .failed →
      Becomes (.checkpointRecordWritten result) s s)) ∧
  (∀ (s : State),
    s.recordAt 0 = .header
      { masks := s.routes.masks
        routes := s.routes.routes
        commonPath := s.routes.commonPath
        options := s.options
        noticeMask := s.alerts.mask
        engine := s.engine
        sequence := s.ckpt.sequence } ∧
    ∀ i, s.recordAt (i + 1) = .element i
      { index := i
        generation := (s.element i).generation
        position := match (s.element i).position with
          | .vacant => .vacant
          | .suspect => .suspect
          | .assigned f => .assigned f.toAccount
        sequence := s.ckpt.sequence }) ∧
  ∀ (s : State) copy result,
    let place := match copy with
      | .header _ => 0
      | .element i _ => i + 1
    let slot := match copy with
      | .header _ => 240
      | .element i _ => i
    let store : Store := match copy, result with
      | _, .leftOld => s.store
      | .header r, .verified => { s.store with header := .written r }
      | .header _, .leftBlank => { s.store with header := .blank }
      | .header _, .leftInvalid => { s.store with header := .torn }
      | .element i r, .verified => { s.store with elements := tset s.store.elements i (.written r) }
      | .element i _, .leftBlank => { s.store with elements := tset s.store.elements i .blank }
      | .element i _, .leftInvalid => { s.store with elements := tset s.store.elements i .torn }
    let failed := s.ckpt.failedSoFar + if result = .verified then 0 else 1
    let first := if result = .verified then s.ckpt.firstFailed else some (s.ckpt.firstFailed.getD slot)
    let ends := fun (ended : State) =>
      (s.ckpt.pending = false → s.finishRecord copy result = ended) ∧
      (s.ckpt.pending = true →
        s.finishRecord copy result =
          State.beginCheckpoint { ended with ckpt := { ended.ckpt with pending := false } })
    (place < 240 →
      s.finishRecord copy result =
        { s with
          store := store
          ckpt := { s.ckpt with failedSoFar := failed, firstFailed := first, progress := .due (place + 1) } }) ∧
    (240 ≤ place → failed = 0 →
      ends
        { s with
          store := store
          ckpt := { s.ckpt with failedSoFar := 0, firstFailed := first, lastFailed := 0, progress := .done }
          alerts := s.alerts.take (.raised .checkpointDone (s.ckpt.sequence.toNat % 65536)) }) ∧
    (∀ noted, 240 ≤ place → failed ≠ 0 → first = some noted →
      ends
        { s with
          store := store
          ckpt := { s.ckpt with
            failedSoFar := failed
            firstFailed := first
            lastFailed := failed
            progress := .failed }
          alerts := s.alerts.take (.raised .checkpointFail noted) })

/-- R190 to R193: FETCH ALERTS returns the latched bits of the mask with their subjects, and clears the returned bits
but for conditions that hold; SET NOTICE MASK replaces the mask; and an event latches and marks, a condition that starts
does the same, one that is set again latches alone, and one that ends marks alone. That the subjects follow the set
without a count is read from R192 (the model's, notes/assumptions/14.md). -/
def Obligations.AlertRequests : Prop :=
  (∀ (s : State) code mask,
    (s.serving (.fetchAlerts mask) code →
      ((∃ n, 19 ≤ n ∧ mask.getLsbD n = true) → Refuses (.fetchAlerts mask) s code .badValue) ∧
      ((∀ n, 19 ≤ n → mask.getLsbD n = false) →
        ∃ latched : BitVec 19,
          Replies (.fetchAlerts mask) s code { s with alerts := { s.alerts with latched := latched } } .ok
            (u32 (s.alerts.latched &&& mask.setWidth 19).toNat ++
              ((List.range 19).filter fun k => s.alerts.latched.getLsbD k && mask.getLsbD k).flatMap
                fun k => u16 (tget s.alerts.subjects k 0)) ∧
          ∀ k < 19, latched.getLsbD k =
            (s.alerts.latched.getLsbD k && (!mask.getLsbD k || s.conditionBits.getLsbD k)))) ∧
    (s.serving (.setNoticeMask mask) code →
      ((∃ n, 19 ≤ n ∧ mask.getLsbD n = true) → Refuses (.setNoticeMask mask) s code .badValue) ∧
      ((∀ n, 19 ≤ n → mask.getLsbD n = false) →
        Replies (.setNoticeMask mask) s code
          { s with alerts := { s.alerts with mask := mask.setWidth 19 } } .ok []))) ∧
  ∀ (a : AlertUnit) kind subject,
    let latched : AlertUnit :=
      { a with
        latched := a.latched ||| BitVec.twoPow 19 kind.code
        subjects := tset a.subjects kind.code subject }
    let marks := a.marks ||| (BitVec.twoPow 19 kind.code &&& a.mask)
    a.take (.raised kind subject) = { latched with marks := marks } ∧
    a.take (.conditionSet kind subject true) = { latched with marks := marks } ∧
    a.take (.conditionSet kind subject false) = latched ∧
    a.take (.conditionEnded kind) = { a with marks := marks }

/-! ### Power and start-up -/

/-- R173, R176, R178, R195: a start-up begins with every block at its values after start-up, whatever its cause; the
store stays, but for the write, if one has begun, or the erase in progress. A POWER_ON of a powered part begins one too
(the model's choice, notes/assumptions/9.md); the write in progress is complete at once (its choice,
notes/assumptions/23.md); and the restore is still to be made (its choice, notes/assumptions/8.md). -/
def Obligations.StartupBegins : Prop :=
  (∀ (s : State), Becomes .powerOn s (s.beginStartup s.committedStore false)) ∧
  (∀ (s : State) erased, s.powered = true →
    (s.ckpt.erasing = false → Becomes (.resetPin erased) s (s.beginStartup s.committedStore false)) ∧
    (s.ckpt.erasing = true →
      Becomes (.resetPin erased) s (s.beginStartup (s.store.erasedTo erased) false))) ∧
  (∀ (s : State),
    (∀ copy, s.ckpt.progress = .writing copy → s.committedStore = s.store.write copy) ∧
    ((∀ copy, s.ckpt.progress ≠ .writing copy) → s.committedStore = s.store)) ∧
  (∀ (s : State) store erasing,
    s.beginStartup store erasing =
      { State.reset with
        engine := .starting
        timer := ⟨false, 0, false, none, none, none, false⟩
        ckpt := { CheckpointUnit.fresh with erasing := erasing, restored := false }
        store := store
        freeCount := s.freeCount
        schedule := s.schedule
        pending := s.pending })

/-- R163, R176, R178: a loss of power leaves the slot under the cursor old, new or invalid, and an erase as far
as it had come; which of these it is comes with the row, and a write that had not begun begins at the loss
(notes/assumptions/7.md). The part is without power, with every other block at its values at the start of a start-up
(the model's choice, notes/assumptions/9.md). -/
def Obligations.PowerLoss : Prop :=
  ∀ (s : State) tear erased torn, s.powered = true →
    let lost := fun store => exec (.powerLoss tear erased torn) s =
      .next { s.beginStartup store false with powered := false }
    (s.ckpt.erasing = false →
      s.ckpt.progress = .idle ∨ s.ckpt.progress = .done ∨ s.ckpt.progress = .failed → lost s.store) ∧
    (∀ copy, s.ckpt.erasing = false →
      s.ckpt.progress = .writing copy ∨ (∃ place, s.ckpt.progress = .due place ∧ copy = s.recordAt place) →
      (tear = .oldRecord → lost s.store) ∧
      (tear = .newRecord → lost (s.store.write copy)) ∧
      (tear = .invalid → lost (s.store.tearAt copy))) ∧
    (s.ckpt.erasing = true → torn = false → lost (s.store.erasedTo erased)) ∧
    (s.ckpt.erasing = true → torn = true → lost ((s.store.erasedTo erased).tornAt erased))

/-- R25, R163 to R165, R173, R174: the element a slot restores, the stale count, the alerts of the restore with their
subjects, and the outcome of a start-up; which element records are valid in a slot, and which header records. The checks
of the options and of an element's settings are SetOptions' and AssignElement's. A record's CRC-32 is the slot's
condition in the store (the model's, notes/assumptions/13.md). -/
def Obligations.StoreRestored : Prop :=
  (∀ (st : Store),
    let suspect := (tlist st.restored).any Element.isSuspect
    let header := if st.checkedHeader = .torn then [AlertEvent.raised .restoreIncomplete 240] else []
    (∀ i < 240,
      let restored := tget st.restored i .vacant
      (st.element i = .blank → restored = ⟨0, .vacant⟩) ∧
      (st.element i = .torn → restored = ⟨0, .suspect⟩) ∧
      (∀ r, st.element i = .written r →
        (r.ok i = false → restored = ⟨0, .suspect⟩) ∧
        (r.ok i = true → r.position = .vacant → restored = ⟨r.generation, .vacant⟩) ∧
        (r.ok i = true → r.position = .suspect → restored = ⟨r.generation, .suspect⟩) ∧
        (∀ a, r.ok i = true → r.position = .assigned a →
          let projection : Projection := if a.state = .due ∨ a.state = .limit then .now else .unknown
          restored = ⟨r.generation, .assigned { a with intervalWear := 0, projection := projection }⟩))) ∧
    (∀ h, st.checkedHeader = .written h →
      st.staleCount = (List.range 240).countP fun i => match st.element i with
        | .written r => r.ok i && r.sequence != h.sequence
        | .blank | .torn => false) ∧
    ((∀ h, st.checkedHeader ≠ .written h) → st.staleCount = 0) ∧
    (suspect = false → st.restoreAlerts = header) ∧
    (∀ i < 240, (tget st.restored i .vacant).isSuspect = true →
      (∀ j < i, (tget st.restored j .vacant).isSuspect = false) →
      st.restoreAlerts = header ++ [.raised .restoreIncomplete i]) ∧
    (∀ h, st.checkedHeader = .written h → st.outcome = if suspect then .incomplete else .restored) ∧
    (st.checkedHeader = .torn → st.outcome = .incomplete) ∧
    (st.checkedHeader = .blank → (∀ i < 240, st.element i = .blank) → st.outcome = .fresh) ∧
    (st.checkedHeader = .blank → (∃ i < 240, st.element i ≠ .blank) →
      st.outcome = if suspect then .incomplete else .defaults)) ∧
  (∀ i (r : ElementRecord),
    (r.position = .vacant ∨ r.position = .suspect → (r.ok i = true ↔ r.index = i)) ∧
    (∀ a, r.position = .assigned a →
      (r.ok i = true ↔
        r.index = i ∧ a.settings.ok = true ∧ a.intervals ≤ 16 ∧
          (a.state = .breakIn → a.accumulator < a.settings.advisory) ∧
          (a.state = .service → a.accumulator < a.settings.advisory) ∧
          (a.state = .advised → a.settings.advisory ≤ a.accumulator ∧ a.accumulator < a.settings.due) ∧
          (a.state = .due → a.settings.due ≤ a.accumulator ∧ a.accumulator < a.settings.limit) ∧
          (a.state = .limit → a.settings.limit ≤ a.accumulator)))) ∧
  ∀ (st : Store),
    let pathOk := fun (path : List Nat) => path.length ≤ 16 ∧ ∀ i ∈ path, i ≤ 239
    (st.header = .blank → st.checkedHeader = .blank) ∧
    (st.header = .torn → st.checkedHeader = .torn) ∧
    (∀ h, st.header = .written h →
      let valid := h.options.ok = true ∧
        (∀ k < 32, (tget h.routes k .empty).maskIndex ≤ 7 ∧ pathOk (tget h.routes k .empty).path) ∧
        pathOk h.commonPath ∧ (h.engine = .stopped ∨ h.engine = .counting)
      (valid → st.checkedHeader = .written h) ∧ (¬valid → st.checkedHeader = .torn))

/-- R127, R173 to R175: a start-up's restore and its end, by what the header slot reads as (which headers and element
records are valid is StoreRestored's). The restore is one act: it
is made at the end, or, where the schedule lets other events come between, at a STARTUP_END before it, and notices of
its alerts may then be sent in STARTING (the model's choice, notes/assumptions/8.md). -/
def Obligations.StartupEnds : Prop :=
  ∀ (s : State), s.powered = true → s.engine = .starting →
    let st := if s.ckpt.erasing then Store.erased else s.store
    let begun : State := { s with schedule := { s.schedule with cuts := s.schedule.cuts.tail } }
    let ckpt : CheckpointUnit :=
      { s.ckpt with
        outcome := st.outcome
        stale := st.staleCount
        suspects := (tlist st.restored).countP Element.isSuspect
        erasing := false
        restored := true }
    let ends := fun (r : State) =>
      let engine : EngineState := match r.store.checkedHeader with
        | .written h =>
            if h.engine = .counting ∧ (tlist r.store.restored).any Element.isSuspect = false then .counting
            else .stopped
        | .blank | .torn => .stopped
      (s.cut ≠ none → Becomes .startupEnd s r) ∧
      (s.cut = none →
        Becomes .startupEnd s
          { r with
            engine := engine
            timer := { r.timer with running := true }
            hold := (HoldUnit.fresh.postRestore r.wish).arbiter true
            plan := .fresh })
    (∀ h, s.ckpt.restored = false → st.checkedHeader = .written h →
      ends
        { begun with
          store := st
          plan := .fresh
          elements := st.restored
          routes := { s.routes with masks := h.masks, routes := h.routes, commonPath := h.commonPath }
          options := h.options
          ckpt := { ckpt with sequence := h.sequence }
          alerts := { s.alerts with mask := h.noticeMask }.takeAll st.restoreAlerts }) ∧
    (s.ckpt.restored = false → (∀ h, st.checkedHeader ≠ .written h) →
      ends
        { begun with
          store := st
          plan := .fresh
          elements := st.restored
          ckpt := ckpt
          alerts := s.alerts.takeAll st.restoreAlerts }) ∧
    (s.ckpt.restored = true → ends begun)

/-! ### The line link -/

/-- R91 to R94: one byte in each receive state; the bytes of a whole record, received from HUNTING, are judged as
that record; a gap inside a record abandons it, and while hunting it does nothing. -/
def Obligations.LineBytes : Prop :=
  ∀ (s : State), s.powered = true →
    let abandons := fun subject => Becomes .lineRecordAbandoned s
      { s with
        line := { s.line with rx := .hunting, errors := s.line.errors + 1 }
        alerts := s.alerts.take (.raised .lineFrameError subject) }
    (∀ b,
      let waits := fun rx => Becomes (.lineByteReceived b) s { s with line := { s.line with rx := rx } }
      (s.line.rx = .hunting → b ≠ 0x5A → Becomes (.lineByteReceived b) s s) ∧
      (s.line.rx = .hunting → b = 0x5A → waits (.header none)) ∧
      (s.line.rx = .header none → waits (.header (some b))) ∧
      (∀ kind, s.line.rx = .header (some kind) → b = 0 → waits (.check kind [] none)) ∧
      (∀ kind, s.line.rx = .header (some kind) → b ≠ 0 → waits (.payload kind b.toNat [])) ∧
      (∀ kind n stored, s.line.rx = .payload kind n stored → stored.length + 1 ≠ n →
        waits (.payload kind n (stored ++ [b]))) ∧
      (∀ kind n stored, s.line.rx = .payload kind n stored → stored.length + 1 = n →
        waits (.check kind (stored ++ [b]) none)) ∧
      (∀ kind stored, s.line.rx = .check kind stored none → waits (.check kind stored (some b))) ∧
      (∀ kind stored low, s.line.rx = .check kind stored (some low) →
        Becomes (.lineByteReceived b) s
          (State.recordArrives { s with line := { s.line with rx := .hunting } } ⟨kind, stored, b ++ low⟩))) ∧
    (∀ kind payload, s.line.rx = .hunting → payload.length ≤ 255 →
      Becomes (.lineRecordArrival (lineFrame kind payload)) s
        (s.recordArrives ⟨kind, payload, crc16 (kind :: u8 payload.length ++ payload)⟩)) ∧
    (s.line.rx = .hunting → Becomes .lineRecordAbandoned s s) ∧
    (s.line.rx = .header none → abandons 256) ∧
    (∀ kind, s.line.rx = .header (some kind) → abandons kind.toNat) ∧
    (∀ kind n stored, s.line.rx = .payload kind n stored → abandons kind.toNat) ∧
    (∀ kind stored low, s.line.rx = .check kind stored low → abandons kind.toNat)

/-- R94, R95, R97: a record whose check, kind and length are right is well-formed exactly when its payload's fields are
in range, kind by kind; a record that fails a test is a line error and nothing else. -/
def Obligations.RecordsJudged : Prop :=
  let judgedAs := fun kind payload => RawRecord.judged ⟨kind, payload, lineCheck kind payload⟩
  (∀ serial destination thickness length (flags : Byte), serial < 4294967296 → destination < 65536 →
    thickness < 256 → length < 65536 →
    let p := u32 serial ++ u16 destination ++ u8 thickness ++ u16 length ++ [flags]
    let item : Item := ⟨serial, destination, thickness, length, flags.getLsbD 0, flags.getLsbD 1⟩
    (destination ≤ 4095 ∧ thickness ≤ 3 ∧ 40 ≤ length ∧ length ≤ 600 ∧ flags.toNat < 4 →
      judgedAs 0x11 p = some (.queued (.item item))) ∧
    (4095 < destination ∨ 3 < thickness ∨ length < 40 ∨ 600 < length ∨ 4 ≤ flags.toNat →
      judgedAs 0x11 p = none)) ∧
  (∀ mode < 256,
    (∀ m : LineMode, m.code = mode → judgedAs 0x12 (u8 mode) = some (.queued (.mode m))) ∧
    (4 < mode → judgedAs 0x12 (u8 mode) = none)) ∧
  (∀ t drive belt valid, t < 256 → drive < 65536 → belt < 65536 → valid < 256 →
    let p := u8 t ++ u16 drive ++ u16 belt ++ u8 valid
    (t ≤ 31 ∧ valid ≤ 1 → judgedAs 0x13 p = some (.queued (.tach t drive belt (decide (valid = 1))))) ∧
    (31 < t ∨ 1 < valid → judgedAs 0x13 p = none)) ∧
  (∀ t severity, t < 256 → severity < 256 →
    let p := u8 t ++ u8 severity
    (t ≤ 31 ∧ 1 ≤ severity ∧ severity ≤ 3 → judgedAs 0x14 p = some (.queued (.jam t severity))) ∧
    (31 < t ∨ severity < 1 ∨ 3 < severity → judgedAs 0x14 p = none)) ∧
  (∀ tag t answer, tag < 256 → t < 256 → answer < 256 →
    let p := u8 tag ++ u8 t ++ u8 answer
    (tag ≤ 3 ∧ t ≤ 31 ∧ 1 ≤ answer ∧ answer ≤ 2 →
      judgedAs 0x15 p = some (.answer tag t (decide (answer = 1)))) ∧
    (3 < tag ∨ 31 < t ∨ answer < 1 ∨ 2 < answer → judgedAs 0x15 p = none)) ∧
  (∀ (r : RawRecord), lineCheck r.kind r.payload ≠ r.check ∨
      r.kind ∉ [0x11, 0x12, 0x13, 0x14, 0x15] ∨ inboundLength r.kind ≠ some r.payload.length → r.judged = none) ∧
  (∀ (s : State) (r : RawRecord), r.judged = none →
    s.recordArrives r =
      { s with
        line := { s.line with errors := s.line.errors + 1 }
        alerts := s.alerts.take (.raised .lineFrameError r.kind.toNat) })

/-- R97 to R100, R103 to R105, R109, R117, R118, R122: what a well-formed record does at its arrival; the footprints and
codes of the kinds, and the overrun counter of each. -/
def Obligations.RecordPassedOn : Prop :=
  (∀ (s : State) (r : RawRecord),
    (∀ record, r.judged = some (.queued record) →
      let received := { s.wear with received := s.wear.received + 1 }
      (s.engine = .starting →
        s.recordArrives r =
          { s with wear := if record.isItem then { received with notCounted := s.wear.notCounted + 1 } else s.wear }) ∧
      (s.engine ≠ .starting → s.line.used + record.footprint ≤ 2048 →
        s.recordArrives r =
          { s with
            line := { s.line with intake := s.line.intake ++ [record] }
            wear := if record.isItem then received else s.wear }) ∧
      (s.engine ≠ .starting → 2048 < s.line.used + record.footprint →
        s.recordArrives r =
          { s with
            line := s.line.overrun record
            wear := if record.isItem then { received with lost := s.wear.lost + 1 } else s.wear
            alerts := s.alerts.take (.raised .intakeOverrun record.kindCode) })) ∧
    (∀ tag t granted, r.judged = some (.answer tag t granted) →
      let stray : State := { s with line := { s.line with strays := s.line.strays + 1 } }
      let freed := fun outcome =>
        s.hold.setSlot tag { s.hold.slot tag with state := .free, outcome := outcome, timer := none }
      (s.engine = .starting → s.recordArrives r = stray) ∧
      (s.engine ≠ .starting →
        (s.hold.slot tag).timer = none ∨ (s.hold.slot tag).transport ≠ some t → s.recordArrives r = stray) ∧
      (s.engine ≠ .starting → (s.hold.slot tag).timer ≠ none → (s.hold.slot tag).transport = some t →
        ((s.hold.slot tag).state = .sent → granted = true →
          s.recordArrives r =
            { s with
              hold := ((freed .granted).setState t .held).arbiter true
              alerts := s.alerts.take (.raised .holdGranted t) }) ∧
        ((s.hold.slot tag).state = .sent → granted = false →
          s.recordArrives r =
            { s with
              hold := ((freed .refused).setState t (.deferred s.options.deferral)).arbiter true
              alerts := s.alerts.take (.raised .holdRefused t) }) ∧
        ((s.hold.slot tag).state = .aborting → granted = true →
          s.recordArrives r = { s with hold := ((freed .aborted).joinRelease t).arbiter true }) ∧
        ((s.hold.slot tag).state = .aborting → granted = false →
          s.recordArrives r = { s with hold := (freed .aborted).arbiter true })))) ∧
  ∀ (l : LineReceiver) item mode t drive belt valid severity,
    let kinds := [LineRecord.item item, .mode mode, .tach t drive belt valid, .jam t severity]
    l.used = (l.intake.map LineRecord.footprint).sum ∧
    (∀ code, l.countOf code = l.intake.countP fun record => record.kindCode == code) ∧
    kinds.map LineRecord.footprint = [12, 3, 8, 4] ∧
    kinds.map LineRecord.kindCode = [0x11, 0x12, 0x13, 0x14] ∧
    kinds.map LineRecord.isItem = [true, false, false, false] ∧
    kinds.map l.overrun =
      [{ l with itemOverrun := l.itemOverrun + 1 }, { l with modeOverrun := l.modeOverrun + 1 },
        { l with tachOverrun := l.tachOverrun + 1 }, { l with jamOverrun := l.jamOverrun + 1 }]

/-! ### Records taken -/

/-- R27, R29, R30, R32, R41 to R43: what TAKE_RECORD does with each kind of record taken with no work in progress. In
STARTING, and with an empty intake, it changes nothing (the latter the model's choice, notes/assumptions/10.md). How
the work of a JAM goes in COUNTING is WorkInParts', what a sample does SpeedSamples'. -/
def Obligations.RecordsTaken : Prop :=
  ∀ (s : State) rest, s.powered = true →
    let left : State :=
      { s with
        line := { s.line with intake := rest }
        schedule := { s.schedule with cuts := s.schedule.cuts.tail } }
    (s.engine = .starting → Becomes .takeRecord s s) ∧
    (s.engine ≠ .starting → s.wear.work = none →
      (s.line.intake = [] → Becomes .takeRecord s s) ∧
      (∀ m, s.line.intake = .mode m :: rest →
        Becomes .takeRecord s
          { left with
            wear := { s.wear with mode := m }
            transports := if m = .idle then tmap (fun r => { r with running := false }) s.transports
              else s.transports }) ∧
      (∀ t drive belt valid, s.line.intake = .tach t drive belt valid :: rest →
        Becomes .takeRecord s (left.takeSample t drive belt valid)) ∧
      (∀ it, s.line.intake = .item it :: rest → s.engine = .stopped →
        Becomes .takeRecord s { left with wear := { s.wear with notCounted := s.wear.notCounted + 1 } }) ∧
      (∀ t severity, s.line.intake = .jam t severity :: rest →
        let live := { (s.transport t).live with jams := min ((s.transport t).live.jams + 1) 65535 }
        let counted : State := { left with transports := tset s.transports t { s.transport t with live := live } }
        (s.engine = .stopped → Becomes .takeRecord s counted) ∧
        (s.engine = .counting →
          Becomes .takeRecord s (counted.jamWork (s.actsAllowed s.cut) t severity 0 false))))

/-- R33, R38, R58 to R60, R85: an ITEM taken in COUNTING is counted in exactly one route counter, and the work on its
path begins; at its end each transport charged counts it once. -/
def Obligations.ItemCounted : Prop :=
  (∀ (s : State) it rest, s.powered = true → s.engine = .counting → s.wear.work = none →
    s.line.intake = .item it :: rest →
    let routed : State :=
      { s with
        line := { s.line with intake := rest }
        schedule := { s.schedule with cuts := s.schedule.cuts.tail }
        wear := { s.wear with counted := s.wear.counted + 1 } }
    (∀ k < 32, s.routes.routeMatches it.key (s.routes.route k) = true →
      (∀ j < k, s.routes.routeMatches it.key (s.routes.route j) = false) →
      let counts := tset s.routes.matchCounts k (s.routes.matchCount k + 1)
      Becomes .takeRecord s
        (State.itemWork { routed with routes := { s.routes with matchCounts := counts } }
          (s.actsAllowed s.cut) it (s.routes.commonPath ++ (s.routes.route k).path) [])) ∧
    ((∀ k < 32, s.routes.routeMatches it.key (s.routes.route k) = false) →
      Becomes .takeRecord s
        (State.itemWork
          { routed with
            routes := { s.routes with unrouted := s.routes.unrouted + 1 }
            alerts := s.alerts.take (.raised .unroutedItem it.destination) }
          (s.actsAllowed s.cut) it s.routes.commonPath []))) ∧
  ∀ (u : State) ts,
    (∀ t < 32, (u.handOffTransports ts).transport t =
      if t ∈ ts then
        { u.transport t with live :=
          { (u.transport t).live with items := min ((u.transport t).live.items + 1) 65535 } }
      else u.transport t) ∧
    { u.handOffTransports ts with transports := u.transports } = u

/-- R27, R28, R34, R38 to R40, R42, R136: the work of a record and the run charges of a tick go on element by element,
and other events may fall between two elements. How far an execution of the row goes is free, for every schedule (the
model's own field, notes/assumptions/4.md): none is to the end of the work. A record's charges wait while a roll is in
progress, and a roll that waited for the record begins when its work is done. -/
def Obligations.WorkInParts : Prop :=
  (∀ (s : State),
    (s.timer.rolls = true ↔ ∃ carried next, s.timer.boundary = some ⟨carried, .rolling next⟩) ∧
    s.cut = s.schedule.cuts.headD none ∧
    (∀ acts, s.timer.rolls = true → s.actsAllowed acts = some 0) ∧
    (∀ acts, s.timer.rolls = false → s.actsAllowed acts = acts)) ∧
  (∀ (s : State), s.powered = true →
    let going : State :=
      { s with
        schedule := { s.schedule with cuts := s.schedule.cuts.tail }
        wear := { s.wear with work := none } }
    (s.engine ≠ .starting →
      (∀ it path charged, s.wear.work = some (.item it path charged) →
        Becomes .takeRecord s (going.itemWork (s.actsAllowed s.cut) it path charged)) ∧
      (∀ t severity next charged, s.wear.work = some (.jam t severity next charged) →
        Becomes .takeRecord s (going.jamWork (s.actsAllowed s.cut) t severity next charged))) ∧
    (∀ pass, s.timer.running = true → s.timer.runs = some pass →
      Becomes .minuteTick s
        (State.runOn { s with schedule := { s.schedule with cuts := s.schedule.cuts.tail } } s.cut))) ∧
  (∀ (s : State) it path charged,
    (∀ n, n ≤ path.length →
      let u := (path.take n).foldl (chargePosition it) (s, charged)
      s.itemWork (some n) it path charged =
        { u.1 with wear := { u.1.wear with work := some (.item it (path.drop n) u.2) } }) ∧
    (∀ acts, acts = none ∨ (∃ n, acts = some n ∧ path.length < n) →
      let u := path.foldl (chargePosition it) (s, charged)
      s.itemWork acts it path charged = (u.1.handOffTransports u.2).recordDone)) ∧
  (∀ (s : State) t severity next charged,
    (∀ n, next + n < 240 →
      let u := (List.range' next n).foldl (jamCharge t severity) s
      let reached := charged || (List.range' next n).any (s.takesJam t)
      s.jamWork (some n) t severity next charged =
        { u with wear := { u.wear with work := some (.jam t severity (next + n) reached) } }) ∧
    (∀ acts, acts = none ∨ (∃ n, acts = some n ∧ 240 ≤ next + n) →
      s.jamWork acts t severity next charged =
        State.recordDone ((List.range' next (240 - next)).foldl (jamCharge t severity) s)) ∧
    (∀ i, s.takesJam t i = true ↔ ∃ f, s.fitting? i = some f ∧ f.settings.transport = t ∧
      s.wear.mode.counts f.settings.modeSet = true)) ∧
  (∀ (s : State),
    let boundary := match s.timer.boundary with
      | some ⟨carried, .waits⟩ => some ⟨carried, .rolling 0⟩
      | other => other
    s.recordDone =
      { s with wear := { s.wear with work := none }, timer := { s.timer with boundary := boundary } }) ∧
  ∀ (s : State),
    (s.timer.runs = none → ∀ acts, s.runOn acts = s) ∧
    (∀ carried next, s.timer.runs = some ⟨carried, next⟩ →
      (∀ n, next + n < 240 →
        let u := (List.range' next n).foldl (runCharge carried) s
        s.runOn (some n) = { u with timer := { u.timer with runs := some ⟨carried, next + n⟩ } }) ∧
      (∀ acts, acts = none ∨ (∃ n, acts = some n ∧ 240 ≤ next + n) →
        let u := (List.range' next (240 - next)).foldl (runCharge carried) s
        s.runOn acts = { u with timer := { u.timer with runs := none } }))

/-- R31, R34 to R37, R48: one position of a path: skipped where the element is not assigned or its mode set lacks the
line mode, else charged class weight × L × S; the charged element is evaluated and handed on, and nothing else
changes. -/
def Obligations.ItemCharge : Prop :=
  ∀ (s : State) it i ts,
    (s.fitting? i = none → chargePosition it (s, ts) i = (s, ts)) ∧
    (∀ f, s.fitting? i = some f → s.wear.mode.counts f.settings.modeSet = false →
      chargePosition it (s, ts) i = (s, ts)) ∧
    (∀ f, s.fitting? i = some f → s.wear.mode.counts f.settings.modeSet = true →
      let units := ClassWeights.ofClass f.settings.weights it.thickness *
        lengthFactor f.settings.kind it.length * s.slipFactor f
      let g : Fitting :=
        { f with
          accumulator := min (f.accumulator + units) 4294967295
          intervalWear := min (f.intervalWear + units) 4294967295
          passages := min (f.passages + 1) 4294967295
          breakInRemaining := if f.state = .breakIn then f.breakInRemaining - 1 else f.breakInRemaining }
      let ring : List WatchEntry := if s.wear.watched = some i then
          s.wear.ring.drop (s.wear.ring.length - 15) ++ [⟨.item it.serial, units, g.accumulator⟩]
        else s.wear.ring
      let ev := g.evaluate true s.options.intervalLength s.clock
      let h := ev.fitting
      chargePosition it (s, ts) i =
        (State.handOff { s with wear := { s.wear with ring := ring } }
          ⟨i, .item it.serial it.destination it.thickness it.length, s.clock⟩ ev, f.settings.transport :: ts) ∧
      { h with
        state := g.state
        breakInRemaining := g.breakInRemaining
        milestones := g.milestones
        projection := g.projection } = g ∧
      (f.state = .breakIn → g.accumulator < f.settings.advisory →
        h.breakInRemaining = f.breakInRemaining - 1 ∧
        h.state = if f.breakInRemaining ≤ 1 then .service else .breakIn) ∧
      (f.state = .breakIn → f.settings.advisory ≤ g.accumulator → h.breakInRemaining = 0) ∧
      (f.state ≠ .breakIn → h.breakInRemaining = f.breakInRemaining) ∧
      (f.state ≠ .breakIn ∨ f.settings.advisory ≤ g.accumulator →
        h.state = thresholdState g.accumulator f.settings.advisory f.settings.due f.settings.limit))

/-- R39, R42, R44, R48: run and jam charges of one element: each is the evaluation of the charged element, handed on
with the entry of the watch ring, and nothing else changes. A run or jam charge leaves break-in remaining as it is, but
for the end of break-in at advisory (R8). -/
def Obligations.RunAndJamCharge : Prop :=
  ∀ (s : State) i,
    (s.fitting? i = none → ∀ carried t severity, runCharge carried s i = s ∧ jamCharge t severity s i = s) ∧
    (∀ f, s.fitting? i = some f →
      let counts := s.wear.mode.counts f.settings.modeSet
      let runs := (s.transport f.settings.transport).running
      let charges := fun (u : State) source watch minute (units minutes : Nat) =>
        let g : Fitting :=
          { f with
            accumulator := min (f.accumulator + units) 4294967295
            intervalWear := min (f.intervalWear + units) 4294967295
            runMinutes := if minutes = 0 then f.runMinutes else min (f.runMinutes + minutes) 4294967295 }
        let ring : List WatchEntry := if s.wear.watched = some i then
            s.wear.ring.drop (s.wear.ring.length - 15) ++ [⟨watch, units, g.accumulator⟩]
          else s.wear.ring
        let ev := g.evaluate false s.options.intervalLength s.clock
        let h := ev.fitting
        u = State.handOff { s with wear := { s.wear with ring := ring } } ⟨i, source, minute⟩ ev ∧
        { h with
          state := g.state
          breakInRemaining := g.breakInRemaining
          milestones := g.milestones
          projection := g.projection } = g ∧
        (f.state = .breakIn → g.accumulator < f.settings.advisory →
          h.state = .breakIn ∧ h.breakInRemaining = f.breakInRemaining) ∧
        (f.state = .breakIn → f.settings.advisory ≤ g.accumulator → h.breakInRemaining = 0) ∧
        (f.state ≠ .breakIn → h.breakInRemaining = f.breakInRemaining) ∧
        (f.state ≠ .breakIn ∨ f.settings.advisory ≤ g.accumulator →
          h.state = thresholdState g.accumulator f.settings.advisory f.settings.due f.settings.limit)
      (∀ carried, runs = true → counts = true →
        charges (runCharge carried s i) .run .run carried (f.settings.runWeight * s.slipFactor f) 1) ∧
      (∀ carried, runs = false ∨ counts = false → runCharge carried s i = s) ∧
      (∀ severity, counts = true →
        charges (jamCharge f.settings.transport severity s i) .jam .jam s.clock
          (f.settings.jamWeight * severity) 0) ∧
      (∀ t severity, t ≠ f.settings.transport ∨ counts = false → jamCharge t severity s i = s))

/-- R6 to R10, R51: the threshold state of an accumulator; the state after a charge and the break-in left; an
evaluation reports each level that is reached and not yet reported, in level order, with its alert, and sets its flag,
and recomputes the projection where the state changed or a level was reported; the capture takes the first offer that
matches, with CAPTURE_TAKEN. The end of break-in of R7 is no change of state that is handed on. -/
def Obligations.ChargeEvaluated : Prop :=
  (∀ a advisory due limit, advisory < due → due < limit →
    (a < advisory → thresholdState a advisory due limit = .service) ∧
    (advisory ≤ a → a < due → thresholdState a advisory due limit = .advised) ∧
    (due ≤ a → a < limit → thresholdState a advisory due limit = .due) ∧
    (limit ≤ a → thresholdState a advisory due limit = .limit)) ∧
  (∀ (f : Fitting) passage,
    let g := f.afterCharge passage
    let reached := thresholdState f.accumulator f.settings.advisory f.settings.due f.settings.limit
    (f.state = .breakIn → f.accumulator < f.settings.advisory →
      g.state = (if passage = true ∧ f.breakInRemaining = 0 then .service else .breakIn) ∧
      g.breakInRemaining = f.breakInRemaining) ∧
    (f.state = .breakIn → f.settings.advisory ≤ f.accumulator → g.state = reached ∧ g.breakInRemaining = 0) ∧
    (f.state ≠ .breakIn → g.state = reached ∧ g.breakInRemaining = f.breakInRemaining) ∧
    { g with state := f.state, breakInRemaining := f.breakInRemaining } = f) ∧
  (∀ (f : Fitting) moved always L clock,
    let ev := f.settle moved always L clock
    ev.levels = [Level.advised, .due, .limit].filter (fun l =>
      f.settings.threshold l ≤ f.accumulator && !f.milestones.reported l) ∧
    (∀ l, ev.fitting.milestones.reported l =
      (f.milestones.reported l || decide (f.settings.threshold l ≤ f.accumulator))) ∧
    ev.fitting.projection =
      (if moved = true ∨ always = true ∨ ev.levels ≠ [] then f.projected L clock else f.projection) ∧
    ev.moved = moved ∧ ev.projectionMoved = decide (ev.fitting.projection ≠ f.projection) ∧
    { ev.fitting with milestones := f.milestones, projection := f.projection } = f) ∧
  (∀ (f : Fitting) passage L clock,
    let g := f.afterCharge passage
    f.evaluate passage L clock =
      g.settle (decide (g.state ≠ f.state ∧ ¬(f.state = .breakIn ∧ g.state = .service))) false L clock) ∧
  (∀ (t : Trigger) i l,
    t.matches i l = true ↔
      (t.level = .advised ∨ t.level = l ∨ l = .limit) ∧ (t.scope = none ∨ t.scope = some i)) ∧
  (∀ (record : Level → CaptureRecord) cap levels, (∀ t, cap ≠ Capture.armed t) →
    reportLevels record cap levels = (cap, levels.map fun l => .raised l.alert (record l).element)) ∧
  ∀ (record : Level → CaptureRecord) t l rest,
    reportLevels record (.armed t) [] = (.armed t, []) ∧
    (t.matches (record l).element (record l).level = true →
      reportLevels record (.armed t) (l :: rest) =
        (.filled t (record l),
          .raised l.alert (record l).element :: .raised .captureTaken (record l).element ::
            rest.map fun l => .raised l.alert (record l).element)) ∧
    (t.matches (record l).element (record l).level = false →
      reportLevels record (.armed t) (l :: rest) =
        ((reportLevels record (.armed t) rest).1,
          .raised l.alert (record l).element :: (reportLevels record (.armed t) rest).2))

/-- R10, R14, R20: what an evaluation hands on: the record; the alerts of its levels and the offers to the capture,
with what R52 records; a milestone notice where the state changed to ADVISED, DUE or LIMIT, else a projection notice
where the projection changed; and a re-evaluation for an entry into LIMIT. Nothing else changes. -/
def Obligations.EvaluationHandedOn : Prop :=
  ∀ (s : State) (o : Offer) (ev : Evaluation),
    let elements := tset s.elements o.element ⟨(s.element o.element).generation, .assigned ev.fitting⟩
    let t := ev.fitting.settings.transport
    let reported := reportLevels
      (fun level =>
        { element := o.element
          level := level
          source := o.source
          mode := s.wear.mode
          minute := o.minute
          after := ev.fitting.accumulator })
      s.wear.capture ev.levels
    let hands := fun (plan : PlanUnit) (planAlerts : List AlertEvent) =>
      s.handOff o ev =
        { s with
          elements := elements
          wear := { s.wear with capture := reported.1 }
          plan := plan
          hold := if ev.moved = true ∧ ev.fitting.state = .limit then
              s.hold.reevaluate (decide (s.engine ≠ .starting)) (wishOf elements t) t
            else s.hold
          alerts := s.alerts.takeAll (reported.2 ++ planAlerts) }
    let reason : Option Reason := match ev.fitting.state with
      | .advised => some .advised
      | .due => some .due
      | .limit => some .limit
      | .breakIn | .service => none
    (∀ r, ev.moved = true → reason = some r →
      let notice := s.plan.milestoneNotice s.clock
        { element := o.element
          generation := (s.element o.element).generation
          reason := r
          due := ev.fitting.projection
          cost := ev.fitting.settings.cost }
      hands notice.1 notice.2) ∧
    (ev.moved = false ∨ reason = none →
      (ev.projectionMoved = true →
        hands (s.plan.projectionNotice s.clock o.element ev.fitting.projection) []) ∧
      (ev.projectionMoved = false → hands s.plan [])) ∧
    (∀ es : Vector Element 240,
      wishOf es t = true ↔ ∃ i < 240, ∃ f, (tget es i .vacant).position = .assigned f ∧ f.state = .limit ∧
        f.settings.transport = t ∧ f.settings.policy = .hold ∧ f.waived = false)

/-! ### Definitions of the manual -/

/-- R35, R36, R55, R57: the item key, what a match is, the length factor and the slip factor. -/
def Obligations.ItemKeysAndFactors : Prop :=
  (∀ (it : Item), it.destination ≤ 4095 → it.thickness ≤ 3 →
    it.key.toNat = it.destination + 4096 * it.thickness + (if it.reject then 16384 else 0) +
      (if it.recirculated then 32768 else 0)) ∧
  (∀ (m : RouteMap) key (r : Route),
    m.routeMatches key r = true ↔
      r.enabled = true ∧
        ∀ b < 16, (m.mask r.maskIndex).getLsbD b = false → key.getLsbD b = r.pattern.getLsbD b) ∧
  (∀ n, lengthFactor .roller n = 1) ∧
  (∀ n, 40 ≤ n → n ≤ 600 →
    1 ≤ lengthFactor .belt n ∧ lengthFactor .belt n ≤ 6 ∧ n ≤ 100 * lengthFactor .belt n ∧
      100 * lengthFactor .belt n < n + 100) ∧
  (∀ (s : State) (f : Fitting),
    let bedding := ∃ i g, s.fitting? i = some g ∧ g.settings.kind = .belt ∧
      g.settings.transport = f.settings.transport ∧ g.state = .breakIn
    (f.settings.kind = .belt → (s.transport f.settings.transport).slip = .slipping → ¬bedding →
      s.slipFactor f = s.options.slipFactor) ∧
    (f.settings.kind = .roller ∨ (s.transport f.settings.transport).slip = .clear ∨ bedding →
      s.slipFactor f = 1))

/-- R72 to R80, R83: the classification of a sample and its slip per-mille; what one sample does on its transport's record:
running flag, window, sensor state, slip detector, counters and last sample; and what it reports of the two conditions. -/
def Obligations.SpeedSamples : Prop :=
  (∀ minimum drive belt valid,
     (valid = false → classify minimum drive belt valid = .invalid) ∧
     (valid = true →
       (0 < drive → 6 * drive < 5 * belt → classify minimum drive belt valid = .invalid) ∧
       (drive = 0 ∨ 5 * belt ≤ 6 * drive → drive < minimum → classify minimum drive belt valid = .idle) ∧
       (5 * belt ≤ 6 * drive → minimum ≤ drive → belt < drive →
         classify minimum drive belt valid = .evaluated ((drive - belt) * 1000 / drive) ∧
           (drive - belt) * 1000 / drive ≤ 1000) ∧
       (0 < drive → 5 * belt ≤ 6 * drive → minimum ≤ drive → drive ≤ belt →
         classify minimum drive belt valid = .evaluated 0))) ∧
  (∀ (o : Options) drive belt valid (r : Transport),
    let q := r.sample o drive belt valid
    let sort := classify o.minimumDrive drive belt valid
    let joined := r.window.drop (r.window.length - 63) ++ [sort.isValid]
    let run := if sort.isValid then min (r.validRun + 1) 65535 else 0
    let sameRuns := q.overRun = r.overRun ∧ q.goodRun = r.goodRun
    let examined := r.sensor = .good ∧ joined.count false < 6
    q.running = decide (0 < drive) ∧ q.last = some ⟨drive, belt, sort⟩ ∧
    q.live.invalid = (if sort.isValid then r.live.invalid else min (r.live.invalid + 1) 65535) ∧
    (r.sensor = .good → 6 ≤ joined.count false →
      q.sensor = .failed ∧ q.slip = .clear ∧ q.overRun = 0 ∧ q.goodRun = 0 ∧ q.window = joined ∧
        q.validRun = run) ∧
    (examined → q.sensor = .good ∧ q.window = joined ∧ q.validRun = run) ∧
    (r.sensor = .failed → sort.isValid = true → 32 ≤ r.validRun + 1 →
      q.sensor = .good ∧ q.window = [] ∧ q.validRun = 0 ∧ q.slip = r.slip ∧ sameRuns) ∧
    (r.sensor = .failed → sort.isValid = false ∨ r.validRun + 1 < 32 →
      q.sensor = .failed ∧ q.window = joined ∧ q.validRun = run ∧ q.slip = r.slip ∧ sameRuns) ∧
    (∀ p, examined → sort = .evaluated p →
      (o.slipLimit < p → q.live.overLimit = min (r.live.overLimit + 1) 65535) ∧
      (o.slipLimit < p → r.slip = .clear →
        (o.slipSetCount ≤ r.overRun + 1 → q.slip = .slipping ∧ q.overRun = 0 ∧ q.goodRun = 0) ∧
        (r.overRun + 1 < o.slipSetCount →
          q.slip = .clear ∧ q.overRun = r.overRun + 1 ∧ q.goodRun = r.goodRun)) ∧
      (o.slipLimit < p → r.slip = .slipping →
        q.slip = .slipping ∧ q.overRun = r.overRun ∧ q.goodRun = 0) ∧
      (p ≤ o.slipLimit → r.slip = .clear → q.slip = .clear ∧ q.overRun = 0 ∧ q.goodRun = r.goodRun) ∧
      (p ≤ o.slipLimit → r.slip = .slipping →
        (o.slipClearCount ≤ r.goodRun + 1 → q.slip = .clear ∧ q.overRun = 0 ∧ q.goodRun = 0) ∧
        (r.goodRun + 1 < o.slipClearCount →
          q.slip = .slipping ∧ q.overRun = r.overRun ∧ q.goodRun = r.goodRun + 1))) ∧
    (sort = .invalid ∨ sort = .idle → examined → q.slip = r.slip ∧ sameRuns) ∧
    (¬examined ∨ (∀ p, sort = .evaluated p → p ≤ o.slipLimit) → q.live.overLimit = r.live.overLimit) ∧
    { q.live with overLimit := r.live.overLimit, invalid := r.live.invalid } = r.live ∧
    q.snapshot = r.snapshot) ∧
  ∀ (s : State) t drive belt valid,
    let q := (s.transport t).sample s.options drive belt valid
    let table := tset s.transports t q
    let report := fun (kind : AlertKind) (was is : Bool) (holds : Transport → Bool) =>
      if was = false ∧ is = true then [AlertEvent.conditionSet kind t (!(tlist s.transports).any holds)]
      else if was = true ∧ is = false ∧ (tlist table).any holds = false then [.conditionEnded kind]
      else []
    s.takeSample t drive belt valid =
      { s with
        transports := table
        alerts := s.alerts.takeAll
          (report .sensorFail ((s.transport t).sensor == .failed) (q.sensor == .failed)
              (fun r => r.sensor == .failed) ++
            report .slip ((s.transport t).slip == .slipping) (q.slip == .slipping)
              (fun r => r.slip == .slipping)) }

/-- R135, R138: the projection of an assigned element, by the first row that applies, and one element's roll. -/
def Obligations.ProjectionAndRoll : Prop :=
  ∀ (f : Fitting) L clock,
    let n := min f.intervals 16
    let sum := (f.history.take n).sum
    let toGo := f.settings.due - f.accumulator
    let g : Fitting :=
      { f with
        history := min f.intervalWear 65535 :: f.history.take 15
        intervalWear := 0
        intervals := min (f.intervals + 1) 16 }
    (f.state = .due ∨ f.state = .limit → f.projected L clock = .now) ∧
    (f.state ≠ .due → f.state ≠ .limit →
      (clock = none → f.projected L clock = .unknown) ∧
      (f.intervals < 2 → f.projected L clock = .unknown) ∧
      (∀ c, clock = some c → 2 ≤ f.intervals →
        (sum = 0 → f.projected L clock = .never) ∧
        (∀ m, 0 < sum → toGo * n * L ≤ m * sum → m * sum < toGo * n * L + sum →
          (c + m ≤ 4294967294 → f.projected L clock = .minute (c + m)) ∧
          (4294967294 < c + m → f.projected L clock = .never)))) ∧
    f.rolled L clock = { g with projection := g.projected L clock }

/-! ### Time -/

/-- R39, R87, R120, R128, R129, R131, R145: a tick advances a set clock by one, or past its last minute leaves it unset,
raises the interval count or ends the interval, begins the run charges, counts running minutes, and reaches the hold and
plan units. The boundary, an ending deferral and an ended window stay outstanding for rows of their own, and what is
still outstanding at the next tick is done before it, at the plan unit, the hold unit and then the two blocks of the
boundary (the model's choice, notes/assumptions/5.md; the boundary taken to its end is TickDeliveries'); a stopped timer
gives no tick (notes/assumptions/10.md). How far the run charges go at once is free (notes/assumptions/4.md). -/
def Obligations.MinuteTick : Prop :=
  (∀ (s : State), s.powered = true →
    let begun : State := { s with schedule := { s.schedule with cuts := s.schedule.cuts.tail } }
    let d := begun.finishTick
    (s.timer.running = false → Becomes .minuteTick s s) ∧
    (s.timer.holdTick = false → s.timer.planTick = none → s.timer.boundary = none → s.timer.snapshot = false →
      d = begun) ∧
    (s.timer.running = true → s.timer.runs = none → (∀ c, d.clock = some c → c ≤ 4294967294) →
      let carried := match d.clock with
        | some c => if c = 4294967294 then none else some (c + 1)
        | none => none
      let ends : Bool := d.options.intervalLength ≤ d.timer.intervalCount + 1
      let counted : State :=
        { d with
          clock := carried
          timer := { d.timer with
            intervalCount := if ends then 0 else d.timer.intervalCount + 1
            runs := if d.engine = .counting then some ⟨carried, 0⟩ else none
            boundary := if ends then some ⟨carried, .due⟩ else none
            snapshot := ends }
          alerts := if d.clock ≠ none ∧ carried = none then d.alerts.take (.conditionSet .clockUnset 0 true)
            else d.alerts }
      let u := counted.runOn s.cut
      let endsHold := (tlist u.hold.states).any fun st => match st with
        | .deferred countdown => decide (countdown ≤ 1)
        | _ => false
      let fallen := tmap (fun st => match st with
        | .deferred countdown => HoldState.deferred (countdown - 1)
        | other => other) u.hold.states
      let timed : State :=
        { u with
          timer := if endsHold then { u.timer with holdTick := true } else u.timer
          hold := if endsHold then u.hold else { u.hold with states := fallen }
          transports := tmap
            (fun r =>
              if r.running then
                { r with live := { r.live with runningMinutes := min (r.live.runningMinutes + 1) 65535 } }
              else r)
            u.transports }
      (carried = none →
        Becomes .minuteTick s
          { timed with
            plan := { windows := tmap (fun x => x.map fun w => { w with used := 0, pinnedLoad := 0 }) u.plan.windows
                      queue := [] }
            alerts := if u.plan.queue.any (fun e => e.unplaced) then
                u.alerts.take (.conditionEnded .planUnplaced)
              else u.alerts }) ∧
      (∀ c, carried = some c →
        ((∃ k < 8, ∃ w, u.plan.window k = some w ∧ w.start + w.length ≤ c) →
          Becomes .minuteTick s { timed with timer := { timed.timer with planTick := some (some c) } }) ∧
        ((∀ k w, u.plan.window k = some w → c < w.start + w.length) →
          Becomes .minuteTick s { timed with plan := { u.plan with queue := orderEntries c u.plan.queue } })))) ∧
  ∀ (s : State),
    let taken : State := { s with timer := { s.timer with planTick := none } }
    s.finishTick = s.deliverPlanTick.deliverHoldTick.finishBoundary ∧
    (s.timer.planTick = none → s.deliverPlanTick = s) ∧
    (s.timer.planTick = some none →
      s.deliverPlanTick =
        { taken with
          plan := { windows := tmap (fun x => x.map fun w => { w with used := 0, pinnedLoad := 0 }) s.plan.windows
                    queue := [] }
          alerts := if s.plan.queue.any (fun e => e.unplaced) then
              s.alerts.take (.conditionEnded .planUnplaced)
            else s.alerts }) ∧
    (∀ c, s.timer.planTick = some (some c) →
      s.deliverPlanTick =
        { taken with
          plan := (s.plan.dropEnded c).reorder c
          alerts := s.alerts.takeAll (s.plan.missed c) }) ∧
    (s.timer.holdTick = false → s.deliverHoldTick = s) ∧
    (s.timer.holdTick = true →
      s.deliverHoldTick =
        { s with timer := { s.timer with holdTick := false }, hold := s.hold.tick s.arbiterOn s.wish })

/-- R28, R40, R88, R120, R135 to R137, R145: the deliveries of a tick: the end of a deferral, the expiry of windows,
and the interval boundary at the transport monitor and at the element table. The boundary reaches the two blocks in
either order, and its roll may be made in parts, for every schedule (notes/assumptions/4.md); the roll comes after the
run charges of its tick and waits for a record that has been charged. That the replan and the trigger of the automatic
checkpoint fall in one act with the roll's last examination is the model's choice (notes/assumptions/24.md). An event
with nothing outstanding changes nothing (its choice, notes/assumptions/5.md). -/
def Obligations.TickDeliveries : Prop :=
  (∀ (s : State), s.powered = true →
    (s.timer.holdTick = false → Becomes .deferralEnd s s) ∧
    (s.timer.holdTick = true →
      Becomes .deferralEnd s
        { s with
          timer := { s.timer with holdTick := false }
          hold := s.hold.tick s.arbiterOn s.wish }) ∧
    (s.timer.planTick = none → Becomes .windowExpiry s s) ∧
    (∀ c, s.timer.planTick = some (some c) →
      Becomes .windowExpiry s
        { s with
          timer := { s.timer with planTick := none }
          plan := (s.plan.dropEnded c).reorder c
          alerts := s.alerts.takeAll (s.plan.missed c) }) ∧
    (s.timer.boundary = none → s.timer.snapshot = false → Becomes .intervalBoundary s s) ∧
    (s.timer.boundary ≠ none ∨ s.timer.snapshot = true →
      let begun : State := { s with schedule := { s.schedule with cuts := s.schedule.cuts.tail } }
      (s.cut = none → Becomes .intervalBoundary s (begun.deliverSnapshot.deliverRoll none)) ∧
      (s.cut = some 0 → Becomes .intervalBoundary s begun.deliverSnapshot) ∧
      (∀ n, s.cut = some (n + 1) → Becomes .intervalBoundary s (begun.deliverRoll (some n))))) ∧
  (∀ (s : State),
    (s.timer.snapshot = false → s.deliverSnapshot = s) ∧
    (s.timer.snapshot = true →
      s.deliverSnapshot =
        { s with
          timer := { s.timer with snapshot := false }
          transports := tmap (fun r => { r with snapshot := r.live, live := ⟨0, 0, 0, 0, 0⟩ }) s.transports
          snapshotTaken := true })) ∧
  (∀ (s : State) examined,
    let inWork := match s.timer.boundary with
      | some ⟨_, .due⟩ | some ⟨_, .waits⟩ => true
      | some ⟨_, .rolling _⟩ | none => false
    let charged := s.runOn none
    let waiting := fun (carried : Option Nat) =>
      { charged with timer := { charged.timer with boundary := some ⟨carried, .waits⟩ } }
    (s.timer.boundary = none → s.deliverRoll examined = s) ∧
    (∀ carried next, s.timer.boundary = some ⟨carried, .rolling next⟩ →
      s.deliverRoll examined = s.rollOn carried next examined) ∧
    (∀ carried phase, s.timer.boundary = some ⟨carried, phase⟩ → inWork = true →
      (charged.recordCharged = true → s.deliverRoll examined = waiting carried) ∧
      (charged.recordCharged = false → s.deliverRoll examined = charged.rollOn carried 0 examined)) ∧
    (s.recordCharged = true ↔
      (∃ it path ts, s.wear.work = some (.item it path ts) ∧ ts ≠ []) ∨
        ∃ t severity next, s.wear.work = some (.jam t severity next true))) ∧
  (∀ (s : State) carried next,
    let rolls := fun (n : Nat) => rollTable s.options.intervalLength carried next n s.elements
    (∀ n, next + n < 240 →
      s.rollOn carried next (some n) =
        { s with
          elements := rolls n
          timer := { s.timer with boundary := some ⟨carried, .rolling (next + n)⟩ } }) ∧
    (∀ examined n, examined.getD 240 = n → 240 ≤ next + n →
      let rolled : State := { s with elements := rolls n, timer := { s.timer with boundary := none } }
      (s.engine = .counting → s.options.autoSave = true →
        s.rollOn carried next examined = rolled.replan.triggerCheckpoint) ∧
      (s.engine ≠ .counting ∨ s.options.autoSave = false →
        s.rollOn carried next examined = rolled.replan)) ∧
    (∀ n i, i < 240 →
      tget (rolls n) i .vacant =
        if next ≤ i ∧ i < next + n then
          match s.element i with
          | ⟨generation, .assigned f⟩ => ⟨generation, .assigned (f.rolled s.options.intervalLength carried)⟩
          | other => other
        else s.element i)) ∧
  ∀ (s : State),
    let charged := s.deliverSnapshot.runOn none
    (s.timer.boundary = none → s.finishBoundary = s.deliverSnapshot) ∧
    (∀ carried next, s.timer.boundary = some ⟨carried, .rolling next⟩ →
      s.finishBoundary = s.deliverSnapshot.deliverRoll none) ∧
    (∀ carried phase, s.timer.boundary = some ⟨carried, phase⟩ → (∀ next, phase ≠ .rolling next) →
      (charged.recordCharged = true → s.finishBoundary = (charged.goOn none).deliverRoll none) ∧
      (charged.recordCharged = false → s.finishBoundary = charged.deliverRoll none)) ∧
    (∀ acts,
      (s.wear.work = none → s.goOn acts = s) ∧
      (∀ it path ts, s.wear.work = some (.item it path ts) →
        s.goOn acts = State.itemWork { s with wear := { s.wear with work := none } } acts it path ts) ∧
      (∀ t severity next charged, s.wear.work = some (.jam t severity next charged) →
        s.goOn acts =
          State.jamWork { s with wear := { s.wear with work := none } } acts t severity next charged))

/-- R120: a tick at the hold unit: countdowns fall; those that end leave DEFERRED by their wish, in index order,
and then the arbiter runs. -/
def Obligations.HoldTick : Prop :=
  ∀ (h : HoldUnit) on (wish : Nat → Bool),
    let ending := (List.range 32).filter fun t => h.state t = .deferred 1 ∨ h.state t = .deferred 0
    ∃ g : HoldUnit, h.tick on wish = g.arbiter on ∧
      g.slots = h.slots ∧ g.transmit = h.transmit ∧ g.sending = h.sending ∧
      g.waiting = h.waiting ++ ending.filter wish ∧
      ∀ t < 32,
        (t ∈ ending → g.state t = if wish t then .waiting else .clear) ∧
        (∀ c, h.state t = .deferred (c + 2) → g.state t = .deferred (c + 1)) ∧
        ((∀ c, h.state t ≠ .deferred c) → g.state t = h.state t)

/-- R108, R113 to R115, R121, R127: what a re-evaluation does by the wish and the hold state; a removal from the
transmit list; how a slot gives up its request; the arbiter; and the post-restore pass. -/
def Obligations.HoldReevaluated : Prop :=
  (∀ (h : HoldUnit) on t,
    let begun := fun (e : TxEntry) => h.sending = true ∧ h.transmit.head? = some e
    let release := TxEntry.release t
    let released := fun (u : HoldUnit) =>
      if release ∈ u.transmit then u else { u with transmit := u.transmit ++ [release], sending := true }
    -- R113, R114: the wish is present
    (h.state t ≠ .clear → h.reevaluate on true t = h) ∧
    (h.state t = .clear →
      (∀ k < 4, (h.slot k).state = .aborting → (h.slot k).transport = some t →
        (∀ j < k, (h.slot j).state = .aborting → (h.slot j).transport ≠ some t) →
        h.reevaluate on true t =
          (h.setSlot k { h.slot k with
            state := if (h.slot k).timer = none then .pending else .sent }).setState t .asking) ∧
      ((∀ k < 4, (h.slot k).state = .aborting → (h.slot k).transport ≠ some t) →
        (release ∈ h.transmit → ¬begun release →
          h.reevaluate on true t = { h with transmit := h.transmit.erase release }.setState t .held) ∧
        (release ∉ h.transmit ∨ begun release →
          h.reevaluate on true t =
            HoldUnit.arbiter on ({ h with waiting := h.waiting ++ [t] }.setState t .waiting)))) ∧
    -- R121: the wish is absent
    (h.state t = .clear → h.reevaluate on false t = h) ∧
    (h.state t = .waiting →
      h.reevaluate on false t = { h with waiting := h.waiting.erase t }.setState t .clear) ∧
    (∀ countdown, h.state t = .deferred countdown → h.reevaluate on false t = h.setState t .clear) ∧
    (h.state t = .held → h.reevaluate on false t = released (h.setState t .clear)) ∧
    (h.state t = .asking →
      (∀ k < 4, (h.slot k).state.asks = true → (h.slot k).transport = some t →
        (∀ j < k, (h.slot j).state.asks = true → (h.slot j).transport ≠ some t) →
        h.reevaluate on false t = h.giveUp on k t .withdrawn)) ∧
    -- R108, R121, R123: a slot gives up its request
    (∀ k outcome,
      let request := TxEntry.request k t
      ((h.slot k).state = .pending → request ∈ h.transmit → ¬begun request →
        h.giveUp on k t outcome =
          HoldUnit.arbiter on
            (({ h with transmit := h.transmit.erase request }.setSlot k
              { h.slot k with state := .free, outcome := outcome, timer := none }).setState t .clear)) ∧
      ((h.slot k).state = .pending → request ∉ h.transmit ∨ begun request →
        h.giveUp on k t outcome =
          HoldUnit.arbiter on
            ((h.setSlot k { h.slot k with state := .aborting, timer := none }).setState t .clear)) ∧
      ((h.slot k).state = .sent →
        h.giveUp on k t outcome = (h.setSlot k { h.slot k with state := .aborting }).setState t .clear)) ∧
    (h.joinRelease t = released h)) ∧
  -- R115: the arbiter
  (∀ (h : HoldUnit),
    h.arbiter false = h ∧ h.arbiter true = h.arbiterStep.arbiterStep.arbiterStep.arbiterStep ∧
    ((h.arbiter true).waiting = [] ∨ ∀ k < 4, ((h.arbiter true).slot k).state ≠ .free) ∧
    (h.waiting = [] ∨ (∀ k < 4, (h.slot k).state ≠ .free) → h.arbiterStep = h) ∧
    (∀ t rest, ∀ k < 4, h.waiting = t :: rest → (h.slot k).state = .free → (∀ j < k, (h.slot j).state ≠ .free) →
      h.arbiterStep =
        { (h.setSlot k { h.slot k with state := .pending, transport := some t, timer := none }).setState t .asking with
          waiting := rest
          transmit := h.transmit ++ [.request k t]
          sending := true })) ∧
  -- R127: the post-restore pass
  ∀ (wish : Nat → Bool),
    let g := HoldUnit.fresh.postRestore wish
    g.waiting = (List.range 32).filter wish ∧
    (∀ t < 32, g.state t = if wish t then .waiting else .clear) ∧
    { g with waiting := [], states := HoldUnit.fresh.states } = HoldUnit.fresh

/-- R91, R97, R107, R116, R119, R122: the bytes of the line record being sent; a sent line record; and a slot timer
that runs out. The end of a record not being sent and the expiry of an idle timer change nothing (the model's choice,
notes/assumptions/10.md). -/
def Obligations.HoldEvents : Prop :=
  (∀ (h : HoldUnit) rest,
    let frame := fun (body : List Byte) =>
      [(0x5A : Byte)] ++ body ++ [(crc16 body).setWidth 8, (crc16 body >>> 8).setWidth 8]
    (h.sending = false ∨ h.transmit = [] → h.sentFrame = none) ∧
    (∀ k t, h.sending = true → h.transmit = .request k t :: rest →
      h.sentFrame = some (frame ([0x21, 2] ++ u8 k ++ u8 t))) ∧
    (∀ t, h.sending = true → h.transmit = .release t :: rest →
      h.sentFrame = some (frame ([0x22, 1] ++ u8 t)))) ∧
  ∀ (s : State), s.powered = true →
    (s.hold.sending = false → Becomes .lineTxSent s s) ∧
    (∀ t rest, s.hold.sending = true → s.hold.transmit = .release t :: rest →
      Becomes .lineTxSent s { s with hold := { s.hold with transmit := rest, sending := !rest.isEmpty } }) ∧
    (∀ k t rest, s.hold.sending = true → s.hold.transmit = .request k t :: rest →
      let left : HoldUnit := { s.hold with transmit := rest, sending := !rest.isEmpty }
      let timed := some s.options.answerTimeout
      ((s.hold.slot k).state = .pending →
        Becomes .lineTxSent s
          { s with hold := left.setSlot k { s.hold.slot k with state := .sent, timer := timed } }) ∧
      ((s.hold.slot k).state = .aborting → (s.hold.slot k).timer = none →
        Becomes .lineTxSent s { s with hold := left.setSlot k { s.hold.slot k with timer := timed } })) ∧
    (∀ k, (s.hold.slot k).timer = none → Becomes (.holdTimerExpiry k) s s) ∧
    (∀ k, (s.hold.slot k).timer ≠ none →
      let freed := fun outcome =>
        s.hold.setSlot k { s.hold.slot k with state := .free, outcome := outcome, timer := none }
      (∀ t, (s.hold.slot k).state = .sent → (s.hold.slot k).transport = some t →
        Becomes (.holdTimerExpiry k) s
          { s with
            hold := ((freed .lapsed).setState t (.deferred s.options.deferral)).arbiter s.arbiterOn
            alerts := s.alerts.take (.raised .holdLapsed t) }) ∧
      ((s.hold.slot k).state = .aborting →
        Becomes (.holdTimerExpiry k) s { s with hold := (freed .aborted).arbiter s.arbiterOn }))

/-! ### Laws every step keeps -/

/-- R2, R5: the settings of every assigned element pass R2, and its state is the one its accumulator requires. -/
def Obligations.ElementLawKept : Prop :=
  ∀ (s t : State), s.elementsLawful → step s = .next t → t.elementsLawful

/-- R77: every transport whose sensor is FAILED is CLEAR, with R79's and R80's runs and R76's window. -/
def Obligations.TransportLawKept : Prop :=
  ∀ (s t : State), s.transportsLawful → step s = .next t → t.transportsLawful

/-- R48, R99, R183: the intake, the watch ring and the BUSY list stay within their sizes. -/
def Obligations.LimitsKept : Prop :=
  ∀ (s t : State), s.limitsKept → step s = .next t → t.limitsKept

/-- R45: the item balance holds at every moment. -/
def Obligations.ItemBalanceKept : Prop :=
  ∀ (s t : State), s.itemsBalance → step s = .next t → t.itemsBalance

/-- R191: the latched bit of each condition alert is set whenever its condition holds. -/
def Obligations.ConditionsLatchedKept : Prop :=
  ∀ (s t : State), s.conditionsLatched → step s = .next t → t.conditionsLatched

/-- R107, R110, R112: the laws over the waiting list, the hold states and the slots, and the transmitter's. -/
def Obligations.HoldLawsKept : Prop :=
  ∀ (s t : State), s.elementsLawful → s.hold.lawful → s.hold.transmits → step s = .next t →
    t.hold.lawful ∧ t.hold.transmits

/-- R142, R146: a window's loads are the costs of its entries and within its capacity, and the queue holds at most
64 entries, one an element, each with its element's current generation and cost. That an entry which leaves its window
at a cost notice has the new cost at once is the model's reading (notes/assumptions/17.md). -/
def Obligations.PlanLawKept : Prop :=
  ∀ (s t : State), s.planLawful → step s = .next t → t.planLawful

/-- Every law holds right after reset (R25, R71, R99, R112, R142, R190; the model's reset,
notes/assumptions/1.md). -/
def Obligations.LawsHoldAtReset : Prop :=
  State.reset.elementsLawful ∧ State.reset.transportsLawful ∧ State.reset.limitsKept ∧
  State.reset.itemsBalance ∧ State.reset.conditionsLatched ∧ State.reset.hold.lawful ∧
  State.reset.hold.transmits ∧ State.reset.planLawful

end Statements
end

