-- ==== Sys2Proof/Laws/Tables.lean ====
section
/-! SUPPORT. What reading and writing a table can do: `tget`, `tset`, `tmap`, `tlist`, `tenum`. -/

namespace Sys2Proof.Machine

variable {α β : Type} {n : Nat}

@[simp] theorem length_tlist (v : Vector α n) : (tlist v).length = n := by simp [tlist]

@[simp] theorem length_tenum (v : Vector α n) : (tenum v).length = n := by simp [tenum]

theorem tget_of_le (v : Vector α n) {i : Nat} (d : α) (h : n ≤ i) : tget v i d = d := by
  rw [tget, List.getD_eq_default]
  simpa using h

theorem tget_eq_getElem (v : Vector α n) {i : Nat} (d : α) (h : i < n) : tget v i d = v[i] := by
  rw [tget, List.getD_eq_getElem _ _ (by simpa using h)]
  simp

/-- What an entry of a written table is. -/
theorem tget_tset (v : Vector α n) (i j : Nat) (x d : α) :
    tget (tset v i x) j d = if i = j ∧ i < n then x else tget v j d := by
  simp only [tget, tset, List.getD_eq_getElem?_getD, List.getElem?_set]
  by_cases h : i = j
  · subst h
    by_cases h' : i < n <;> simp [h']
  · simp [h]

theorem tget_tset_self (v : Vector α n) {i : Nat} (x d : α) (h : i < n) : tget (tset v i x) i d = x := by
  rw [tget_tset, if_pos ⟨rfl, h⟩]

theorem tget_tset_ne (v : Vector α n) {i j : Nat} (x d : α) (h : j ≠ i) :
    tget (tset v i x) j d = tget v j d := by
  rw [tget_tset, if_neg fun h' => h h'.1.symm]

/-- An entry of a table with a function applied to every entry. -/
theorem tget_tmap (f : α → β) (v : Vector α n) (i : Nat) (d : α) (d' : β) (h : i < n) :
    tget (tmap f v) i d' = f (tget v i d) := by
  simp only [tget, tmap, List.getD_eq_getElem?_getD, List.getElem?_map]
  rw [List.getElem?_eq_getElem (by simpa using h)]
  rfl

/-- The same where the function keeps the default. -/
theorem tget_tmap_default (f : α → α) (v : Vector α n) (i : Nat) (d : α) (hd : f d = d) :
    tget (tmap f v) i d = f (tget v i d) := by
  by_cases h : i < n
  · exact tget_tmap f v i d d h
  · rw [tget_of_le _ _ (by omega), tget_of_le _ _ (by omega), hd]

@[simp] theorem tlist_tmap (f : α → β) (v : Vector α n) : tlist (tmap f v) = (tlist v).map f := rfl

@[simp] theorem tlist_tset (v : Vector α n) (i : Nat) (x : α) : tlist (tset v i x) = (tlist v).set i x := rfl

@[simp] theorem tlist_replicate (x : α) : tlist (Vector.replicate n x) = List.replicate n x := by
  simp [tlist]

@[simp] theorem tget_replicate (x d : α) (i : Nat) :
    tget (Vector.replicate n x) i d = if i < n then x else d := by
  by_cases h : i < n
  · rw [tget_eq_getElem _ _ h]; simp [h]
  · rw [tget_of_le _ _ (by omega), if_neg h]

theorem mem_tlist {v : Vector α n} {x : α} (d : α) : x ∈ tlist v ↔ ∃ i < n, tget v i d = x := by
  rw [List.mem_iff_getElem]
  constructor
  · rintro ⟨i, hi, rfl⟩
    have h : i < n := by simpa using hi
    exact ⟨i, h, by rw [tget_eq_getElem _ _ h]; simp [tlist]⟩
  · rintro ⟨i, h, rfl⟩
    exact ⟨i, by simpa using h, by rw [tget_eq_getElem _ _ h]; simp [tlist]⟩

theorem tget_mem_tlist (v : Vector α n) {i : Nat} (d : α) (h : i < n) : tget v i d ∈ tlist v :=
  (mem_tlist d).2 ⟨i, h, rfl⟩

theorem mem_tenum {v : Vector α n} {x : α × Nat} (d : α) :
    x ∈ tenum v ↔ x.2 < n ∧ tget v x.2 d = x.1 := by
  obtain ⟨a, i⟩ := x
  rw [tenum, List.mem_zipIdx_iff_getElem?]
  by_cases h : i < n
  · rw [List.getElem?_eq_getElem (by simpa using h), tget_eq_getElem _ _ h]
    simp [h]
  · rw [List.getElem?_eq_none (by simpa using h)]
    simp [h]

/-- The indexes of a table's entries, in order. -/
theorem tenum_map_snd (v : Vector α n) : (tenum v).map Prod.snd = List.range n := by
  simp [tenum, List.zipIdx_map_snd, List.range_eq_range']

/-- A table's entries with their indexes, as read. -/
theorem tenum_eq_range (v : Vector α n) (d : α) : tenum v = (List.range n).map fun i => (tget v i d, i) := by
  apply List.ext_getElem
  · simp
  · intro i _ h
    have hi : i < n := by simpa using h
    simp [tenum, tget, hi]

/-- A table's entries, as read. -/
theorem tlist_eq_range (v : Vector α n) (d : α) : tlist v = (List.range n).map fun i => tget v i d := by
  have := congrArg (List.map Prod.fst) (tenum_eq_range v d)
  simp only [tenum, List.map_map, List.zipIdx_map_fst] at this
  exact this

/-- Two tables with the same entries are the same. -/
theorem tget_ext {v w : Vector α n} (d : α) (h : ∀ i < n, tget v i d = tget w i d) : v = w := by
  apply Vector.ext
  intro i hi
  have := h i hi
  rwa [tget_eq_getElem _ _ hi, tget_eq_getElem _ _ hi] at this

/-- An entry written as it was read. -/
theorem tset_tget_self (v : Vector α n) (i : Nat) (d : α) : tset v i (tget v i d) = v := by
  apply tget_ext d
  intro j _
  rw [tget_tset]
  split
  · rename_i h; rw [h.1]
  · rfl

@[simp] theorem tset_tset (v : Vector α n) (i : Nat) (x y : α) : tset (tset v i x) i y = tset v i y := by
  apply Vector.toArray_inj.mp
  simp [tset]

theorem any_tlist {v : Vector α n} (p : α → Bool) (d : α) :
    (tlist v).any p = true ↔ ∃ i < n, p (tget v i d) = true := by
  rw [List.any_eq_true]
  constructor
  · rintro ⟨x, hx, hp⟩
    obtain ⟨i, hi, rfl⟩ := (mem_tlist d).1 hx
    exact ⟨i, hi, hp⟩
  · rintro ⟨i, hi, hp⟩
    exact ⟨_, tget_mem_tlist v d hi, hp⟩

/-! ### Passes over a list -/

/-- What every act of a pass keeps, the pass keeps. -/
theorem foldl_keeps {α β γ : Type} {f : α → β → α} (P : α → γ) (h : ∀ a b, P (f a b) = P a) (l : List β) (a : α) :
    P (l.foldl f a) = P a := by
  induction l generalizing a with
  | nil => rfl
  | cons b l ih => rw [List.foldl_cons, ih, h]

/-! ### Slices -/

theorem tget_tslice {α : Type} {n : Nat} (f : α → α) (first count : Nat) (v : Vector α n) {i : Nat} (d : α)
    (hi : i < n) :
    tget (tslice f first count v) i d =
      if first ≤ i ∧ i < first + count then f (tget v i d) else tget v i d := by
  have hl : i < v.toArray.toList.length := by simpa using hi
  simp only [tget, tslice, List.getD_eq_getElem?_getD, List.getElem?_map, List.getElem?_zipIdx,
    List.getElem?_eq_getElem hl, Option.map_some, Option.getD_some, Nat.zero_add]

/-- The slice of a whole table. -/
theorem tslice_all {α : Type} {n : Nat} (f : α → α) {count : Nat} (v : Vector α n) (h : n ≤ count) :
    tslice f 0 count v = tmap f v := by
  apply Vector.toArray_inj.1
  apply Array.toList_inj.1
  simp only [tslice, tmap]
  apply List.ext_getElem (by simp)
  intro i hi hi'
  have : i < n := by simpa using hi'
  simp only [List.getElem_map, List.getElem_zipIdx, Nat.zero_add, Nat.zero_le, true_and]
  rw [if_pos (by omega)]

end Sys2Proof.Machine
end

