-- ==== Sys2Proof/Laws/Alerts.lean ====
section
/-! SUPPORT. What the alert latch can do: events taken one after another keep the notice mask and every latched bit
(R190, R191, R193). -/

namespace Sys2Proof.Machine

@[simp] theorem take_mask (a : AlertUnit) (e : AlertEvent) : (a.take e).mask = a.mask := by
  cases e <;> simp only [AlertUnit.take] <;> (try split) <;> rfl

@[simp] theorem takeAll_mask (a : AlertUnit) (es : List AlertEvent) : (a.takeAll es).mask = a.mask := by
  induction es generalizing a with
  | nil => rfl
  | cons e es ih => exact (ih _).trans (take_mask a e)

@[simp] theorem takeAll_nil (a : AlertUnit) : a.takeAll [] = a := rfl

@[simp] theorem takeAll_cons (a : AlertUnit) (e : AlertEvent) (es : List AlertEvent) :
    a.takeAll (e :: es) = (a.take e).takeAll es := rfl

theorem takeAll_append (a : AlertUnit) (es fs : List AlertEvent) :
    a.takeAll (es ++ fs) = (a.takeAll es).takeAll fs := by
  simp [AlertUnit.takeAll]

/-- A latched bit after an event. -/
theorem take_latched (a : AlertUnit) (e : AlertEvent) :
    (a.take e).latched =
      a.latched ||| (match e with
        | .raised k _ => k.bit
        | .conditionSet k _ _ => k.bit
        | .conditionEnded _ => 0) := by
  cases e with
  | raised k n => rfl
  | conditionSet k n b => cases b <;> rfl
  | conditionEnded k => simp [AlertUnit.take, AlertUnit.mark]

/-- A latched bit stays through any events. -/
theorem takeAll_latched_of (a : AlertUnit) (es : List AlertEvent) (b : Nat) (h : a.latched.getLsbD b = true) :
    (a.takeAll es).latched.getLsbD b = true := by
  induction es generalizing a with
  | nil => exact h
  | cons e es ih =>
    refine ih _ ?_
    rw [take_latched]
    simp [h]

end Sys2Proof.Machine
end

