-- ==== Sys2Proof/Laws/State.lean ====
section
/-! SUPPORT. What each update of the state leaves in each field: one lemma a field, true by computation, so that no
proof unfolds a record update. -/

namespace Sys2Proof.Machine

variable (s : State)


/-! `State.setElement` -/

@[simp] theorem setElement_powered (i : Nat) (e : Element) : (s.setElement i e).powered = s.powered := rfl
@[simp] theorem setElement_engine (i : Nat) (e : Element) : (s.setElement i e).engine = s.engine := rfl
@[simp] theorem setElement_clock (i : Nat) (e : Element) : (s.setElement i e).clock = s.clock := rfl
@[simp] theorem setElement_timer (i : Nat) (e : Element) : (s.setElement i e).timer = s.timer := rfl
@[simp] theorem setElement_options (i : Nat) (e : Element) : (s.setElement i e).options = s.options := rfl
@[simp] theorem setElement_elements (i : Nat) (e : Element) : (s.setElement i e).elements = tset s.elements i e := rfl
@[simp] theorem setElement_wear (i : Nat) (e : Element) : (s.setElement i e).wear = s.wear := rfl
@[simp] theorem setElement_routes (i : Nat) (e : Element) : (s.setElement i e).routes = s.routes := rfl
@[simp] theorem setElement_transports (i : Nat) (e : Element) : (s.setElement i e).transports = s.transports := rfl
@[simp] theorem setElement_snapshotTaken (i : Nat) (e : Element) : (s.setElement i e).snapshotTaken = s.snapshotTaken := rfl
@[simp] theorem setElement_line (i : Nat) (e : Element) : (s.setElement i e).line = s.line := rfl
@[simp] theorem setElement_hold (i : Nat) (e : Element) : (s.setElement i e).hold = s.hold := rfl
@[simp] theorem setElement_plan (i : Nat) (e : Element) : (s.setElement i e).plan = s.plan := rfl
@[simp] theorem setElement_ckpt (i : Nat) (e : Element) : (s.setElement i e).ckpt = s.ckpt := rfl
@[simp] theorem setElement_store (i : Nat) (e : Element) : (s.setElement i e).store = s.store := rfl
@[simp] theorem setElement_host (i : Nat) (e : Element) : (s.setElement i e).host = s.host := rfl
@[simp] theorem setElement_alerts (i : Nat) (e : Element) : (s.setElement i e).alerts = s.alerts := rfl
@[simp] theorem setElement_freeCount (i : Nat) (e : Element) : (s.setElement i e).freeCount = s.freeCount := rfl
@[simp] theorem setElement_schedule (i : Nat) (e : Element) : (s.setElement i e).schedule = s.schedule := rfl
@[simp] theorem setElement_pending (i : Nat) (e : Element) : (s.setElement i e).pending = s.pending := rfl

/-! `State.setFitting` -/

@[simp] theorem setFitting_powered (i : Nat) (f : Fitting) : (s.setFitting i f).powered = s.powered := rfl
@[simp] theorem setFitting_engine (i : Nat) (f : Fitting) : (s.setFitting i f).engine = s.engine := rfl
@[simp] theorem setFitting_clock (i : Nat) (f : Fitting) : (s.setFitting i f).clock = s.clock := rfl
@[simp] theorem setFitting_timer (i : Nat) (f : Fitting) : (s.setFitting i f).timer = s.timer := rfl
@[simp] theorem setFitting_options (i : Nat) (f : Fitting) : (s.setFitting i f).options = s.options := rfl
@[simp] theorem setFitting_elements (i : Nat) (f : Fitting) : (s.setFitting i f).elements = tset s.elements i { s.element i with position := .assigned f } := rfl
@[simp] theorem setFitting_wear (i : Nat) (f : Fitting) : (s.setFitting i f).wear = s.wear := rfl
@[simp] theorem setFitting_routes (i : Nat) (f : Fitting) : (s.setFitting i f).routes = s.routes := rfl
@[simp] theorem setFitting_transports (i : Nat) (f : Fitting) : (s.setFitting i f).transports = s.transports := rfl
@[simp] theorem setFitting_snapshotTaken (i : Nat) (f : Fitting) : (s.setFitting i f).snapshotTaken = s.snapshotTaken := rfl
@[simp] theorem setFitting_line (i : Nat) (f : Fitting) : (s.setFitting i f).line = s.line := rfl
@[simp] theorem setFitting_hold (i : Nat) (f : Fitting) : (s.setFitting i f).hold = s.hold := rfl
@[simp] theorem setFitting_plan (i : Nat) (f : Fitting) : (s.setFitting i f).plan = s.plan := rfl
@[simp] theorem setFitting_ckpt (i : Nat) (f : Fitting) : (s.setFitting i f).ckpt = s.ckpt := rfl
@[simp] theorem setFitting_store (i : Nat) (f : Fitting) : (s.setFitting i f).store = s.store := rfl
@[simp] theorem setFitting_host (i : Nat) (f : Fitting) : (s.setFitting i f).host = s.host := rfl
@[simp] theorem setFitting_alerts (i : Nat) (f : Fitting) : (s.setFitting i f).alerts = s.alerts := rfl
@[simp] theorem setFitting_freeCount (i : Nat) (f : Fitting) : (s.setFitting i f).freeCount = s.freeCount := rfl
@[simp] theorem setFitting_schedule (i : Nat) (f : Fitting) : (s.setFitting i f).schedule = s.schedule := rfl
@[simp] theorem setFitting_pending (i : Nat) (f : Fitting) : (s.setFitting i f).pending = s.pending := rfl

/-! `State.setTransport` -/

@[simp] theorem setTransport_powered (t : Nat) (r : Transport) : (s.setTransport t r).powered = s.powered := rfl
@[simp] theorem setTransport_engine (t : Nat) (r : Transport) : (s.setTransport t r).engine = s.engine := rfl
@[simp] theorem setTransport_clock (t : Nat) (r : Transport) : (s.setTransport t r).clock = s.clock := rfl
@[simp] theorem setTransport_timer (t : Nat) (r : Transport) : (s.setTransport t r).timer = s.timer := rfl
@[simp] theorem setTransport_options (t : Nat) (r : Transport) : (s.setTransport t r).options = s.options := rfl
@[simp] theorem setTransport_elements (t : Nat) (r : Transport) : (s.setTransport t r).elements = s.elements := rfl
@[simp] theorem setTransport_wear (t : Nat) (r : Transport) : (s.setTransport t r).wear = s.wear := rfl
@[simp] theorem setTransport_routes (t : Nat) (r : Transport) : (s.setTransport t r).routes = s.routes := rfl
@[simp] theorem setTransport_transports (t : Nat) (r : Transport) : (s.setTransport t r).transports = tset s.transports t r := rfl
@[simp] theorem setTransport_snapshotTaken (t : Nat) (r : Transport) : (s.setTransport t r).snapshotTaken = s.snapshotTaken := rfl
@[simp] theorem setTransport_line (t : Nat) (r : Transport) : (s.setTransport t r).line = s.line := rfl
@[simp] theorem setTransport_hold (t : Nat) (r : Transport) : (s.setTransport t r).hold = s.hold := rfl
@[simp] theorem setTransport_plan (t : Nat) (r : Transport) : (s.setTransport t r).plan = s.plan := rfl
@[simp] theorem setTransport_ckpt (t : Nat) (r : Transport) : (s.setTransport t r).ckpt = s.ckpt := rfl
@[simp] theorem setTransport_store (t : Nat) (r : Transport) : (s.setTransport t r).store = s.store := rfl
@[simp] theorem setTransport_host (t : Nat) (r : Transport) : (s.setTransport t r).host = s.host := rfl
@[simp] theorem setTransport_alerts (t : Nat) (r : Transport) : (s.setTransport t r).alerts = s.alerts := rfl
@[simp] theorem setTransport_freeCount (t : Nat) (r : Transport) : (s.setTransport t r).freeCount = s.freeCount := rfl
@[simp] theorem setTransport_schedule (t : Nat) (r : Transport) : (s.setTransport t r).schedule = s.schedule := rfl
@[simp] theorem setTransport_pending (t : Nat) (r : Transport) : (s.setTransport t r).pending = s.pending := rfl

/-! `State.onTransport` -/

@[simp] theorem onTransport_powered (t : Nat) (g : Transport → Transport) : (s.onTransport t g).powered = s.powered := rfl
@[simp] theorem onTransport_engine (t : Nat) (g : Transport → Transport) : (s.onTransport t g).engine = s.engine := rfl
@[simp] theorem onTransport_clock (t : Nat) (g : Transport → Transport) : (s.onTransport t g).clock = s.clock := rfl
@[simp] theorem onTransport_timer (t : Nat) (g : Transport → Transport) : (s.onTransport t g).timer = s.timer := rfl
@[simp] theorem onTransport_options (t : Nat) (g : Transport → Transport) : (s.onTransport t g).options = s.options := rfl
@[simp] theorem onTransport_elements (t : Nat) (g : Transport → Transport) : (s.onTransport t g).elements = s.elements := rfl
@[simp] theorem onTransport_wear (t : Nat) (g : Transport → Transport) : (s.onTransport t g).wear = s.wear := rfl
@[simp] theorem onTransport_routes (t : Nat) (g : Transport → Transport) : (s.onTransport t g).routes = s.routes := rfl
@[simp] theorem onTransport_transports (t : Nat) (g : Transport → Transport) : (s.onTransport t g).transports = tset s.transports t (g (s.transport t)) := rfl
@[simp] theorem onTransport_snapshotTaken (t : Nat) (g : Transport → Transport) : (s.onTransport t g).snapshotTaken = s.snapshotTaken := rfl
@[simp] theorem onTransport_line (t : Nat) (g : Transport → Transport) : (s.onTransport t g).line = s.line := rfl
@[simp] theorem onTransport_hold (t : Nat) (g : Transport → Transport) : (s.onTransport t g).hold = s.hold := rfl
@[simp] theorem onTransport_plan (t : Nat) (g : Transport → Transport) : (s.onTransport t g).plan = s.plan := rfl
@[simp] theorem onTransport_ckpt (t : Nat) (g : Transport → Transport) : (s.onTransport t g).ckpt = s.ckpt := rfl
@[simp] theorem onTransport_store (t : Nat) (g : Transport → Transport) : (s.onTransport t g).store = s.store := rfl
@[simp] theorem onTransport_host (t : Nat) (g : Transport → Transport) : (s.onTransport t g).host = s.host := rfl
@[simp] theorem onTransport_alerts (t : Nat) (g : Transport → Transport) : (s.onTransport t g).alerts = s.alerts := rfl
@[simp] theorem onTransport_freeCount (t : Nat) (g : Transport → Transport) : (s.onTransport t g).freeCount = s.freeCount := rfl
@[simp] theorem onTransport_schedule (t : Nat) (g : Transport → Transport) : (s.onTransport t g).schedule = s.schedule := rfl
@[simp] theorem onTransport_pending (t : Nat) (g : Transport → Transport) : (s.onTransport t g).pending = s.pending := rfl

/-! `State.onTransports` -/

@[simp] theorem onTransports_powered (g : Transport → Transport) : (s.onTransports g).powered = s.powered := rfl
@[simp] theorem onTransports_engine (g : Transport → Transport) : (s.onTransports g).engine = s.engine := rfl
@[simp] theorem onTransports_clock (g : Transport → Transport) : (s.onTransports g).clock = s.clock := rfl
@[simp] theorem onTransports_timer (g : Transport → Transport) : (s.onTransports g).timer = s.timer := rfl
@[simp] theorem onTransports_options (g : Transport → Transport) : (s.onTransports g).options = s.options := rfl
@[simp] theorem onTransports_elements (g : Transport → Transport) : (s.onTransports g).elements = s.elements := rfl
@[simp] theorem onTransports_wear (g : Transport → Transport) : (s.onTransports g).wear = s.wear := rfl
@[simp] theorem onTransports_routes (g : Transport → Transport) : (s.onTransports g).routes = s.routes := rfl
@[simp] theorem onTransports_transports (g : Transport → Transport) : (s.onTransports g).transports = tmap g s.transports := rfl
@[simp] theorem onTransports_snapshotTaken (g : Transport → Transport) : (s.onTransports g).snapshotTaken = s.snapshotTaken := rfl
@[simp] theorem onTransports_line (g : Transport → Transport) : (s.onTransports g).line = s.line := rfl
@[simp] theorem onTransports_hold (g : Transport → Transport) : (s.onTransports g).hold = s.hold := rfl
@[simp] theorem onTransports_plan (g : Transport → Transport) : (s.onTransports g).plan = s.plan := rfl
@[simp] theorem onTransports_ckpt (g : Transport → Transport) : (s.onTransports g).ckpt = s.ckpt := rfl
@[simp] theorem onTransports_store (g : Transport → Transport) : (s.onTransports g).store = s.store := rfl
@[simp] theorem onTransports_host (g : Transport → Transport) : (s.onTransports g).host = s.host := rfl
@[simp] theorem onTransports_alerts (g : Transport → Transport) : (s.onTransports g).alerts = s.alerts := rfl
@[simp] theorem onTransports_freeCount (g : Transport → Transport) : (s.onTransports g).freeCount = s.freeCount := rfl
@[simp] theorem onTransports_schedule (g : Transport → Transport) : (s.onTransports g).schedule = s.schedule := rfl
@[simp] theorem onTransports_pending (g : Transport → Transport) : (s.onTransports g).pending = s.pending := rfl

/-! `State.closeIntervals` -/

@[simp] theorem closeIntervals_powered : (s.closeIntervals).powered = s.powered := rfl
@[simp] theorem closeIntervals_engine : (s.closeIntervals).engine = s.engine := rfl
@[simp] theorem closeIntervals_clock : (s.closeIntervals).clock = s.clock := rfl
@[simp] theorem closeIntervals_timer : (s.closeIntervals).timer = s.timer := rfl
@[simp] theorem closeIntervals_options : (s.closeIntervals).options = s.options := rfl
@[simp] theorem closeIntervals_elements : (s.closeIntervals).elements = s.elements := rfl
@[simp] theorem closeIntervals_wear : (s.closeIntervals).wear = s.wear := rfl
@[simp] theorem closeIntervals_routes : (s.closeIntervals).routes = s.routes := rfl
@[simp] theorem closeIntervals_transports : (s.closeIntervals).transports = tmap Transport.closeInterval s.transports := rfl
@[simp] theorem closeIntervals_snapshotTaken : (s.closeIntervals).snapshotTaken = true := rfl
@[simp] theorem closeIntervals_line : (s.closeIntervals).line = s.line := rfl
@[simp] theorem closeIntervals_hold : (s.closeIntervals).hold = s.hold := rfl
@[simp] theorem closeIntervals_plan : (s.closeIntervals).plan = s.plan := rfl
@[simp] theorem closeIntervals_ckpt : (s.closeIntervals).ckpt = s.ckpt := rfl
@[simp] theorem closeIntervals_store : (s.closeIntervals).store = s.store := rfl
@[simp] theorem closeIntervals_host : (s.closeIntervals).host = s.host := rfl
@[simp] theorem closeIntervals_alerts : (s.closeIntervals).alerts = s.alerts := rfl
@[simp] theorem closeIntervals_freeCount : (s.closeIntervals).freeCount = s.freeCount := rfl
@[simp] theorem closeIntervals_schedule : (s.closeIntervals).schedule = s.schedule := rfl
@[simp] theorem closeIntervals_pending : (s.closeIntervals).pending = s.pending := rfl

/-! `State.raise` -/

@[simp] theorem raise_powered (es : List AlertEvent) : (s.raise es).powered = s.powered := rfl
@[simp] theorem raise_engine (es : List AlertEvent) : (s.raise es).engine = s.engine := rfl
@[simp] theorem raise_clock (es : List AlertEvent) : (s.raise es).clock = s.clock := rfl
@[simp] theorem raise_timer (es : List AlertEvent) : (s.raise es).timer = s.timer := rfl
@[simp] theorem raise_options (es : List AlertEvent) : (s.raise es).options = s.options := rfl
@[simp] theorem raise_elements (es : List AlertEvent) : (s.raise es).elements = s.elements := rfl
@[simp] theorem raise_wear (es : List AlertEvent) : (s.raise es).wear = s.wear := rfl
@[simp] theorem raise_routes (es : List AlertEvent) : (s.raise es).routes = s.routes := rfl
@[simp] theorem raise_transports (es : List AlertEvent) : (s.raise es).transports = s.transports := rfl
@[simp] theorem raise_snapshotTaken (es : List AlertEvent) : (s.raise es).snapshotTaken = s.snapshotTaken := rfl
@[simp] theorem raise_line (es : List AlertEvent) : (s.raise es).line = s.line := rfl
@[simp] theorem raise_hold (es : List AlertEvent) : (s.raise es).hold = s.hold := rfl
@[simp] theorem raise_plan (es : List AlertEvent) : (s.raise es).plan = s.plan := rfl
@[simp] theorem raise_ckpt (es : List AlertEvent) : (s.raise es).ckpt = s.ckpt := rfl
@[simp] theorem raise_store (es : List AlertEvent) : (s.raise es).store = s.store := rfl
@[simp] theorem raise_host (es : List AlertEvent) : (s.raise es).host = s.host := rfl
@[simp] theorem raise_alerts (es : List AlertEvent) : (s.raise es).alerts = s.alerts.takeAll es := rfl
@[simp] theorem raise_freeCount (es : List AlertEvent) : (s.raise es).freeCount = s.freeCount := rfl
@[simp] theorem raise_schedule (es : List AlertEvent) : (s.raise es).schedule = s.schedule := rfl
@[simp] theorem raise_pending (es : List AlertEvent) : (s.raise es).pending = s.pending := rfl

/-! `State.setInHand` -/

@[simp] theorem setInHand_powered (h : Option InHand) : (s.setInHand h).powered = s.powered := rfl
@[simp] theorem setInHand_engine (h : Option InHand) : (s.setInHand h).engine = s.engine := rfl
@[simp] theorem setInHand_clock (h : Option InHand) : (s.setInHand h).clock = s.clock := rfl
@[simp] theorem setInHand_timer (h : Option InHand) : (s.setInHand h).timer = s.timer := rfl
@[simp] theorem setInHand_options (h : Option InHand) : (s.setInHand h).options = s.options := rfl
@[simp] theorem setInHand_elements (h : Option InHand) : (s.setInHand h).elements = s.elements := rfl
@[simp] theorem setInHand_wear (h : Option InHand) : (s.setInHand h).wear = s.wear := rfl
@[simp] theorem setInHand_routes (h : Option InHand) : (s.setInHand h).routes = s.routes := rfl
@[simp] theorem setInHand_transports (h : Option InHand) : (s.setInHand h).transports = s.transports := rfl
@[simp] theorem setInHand_snapshotTaken (h : Option InHand) : (s.setInHand h).snapshotTaken = s.snapshotTaken := rfl
@[simp] theorem setInHand_line (h : Option InHand) : (s.setInHand h).line = s.line := rfl
@[simp] theorem setInHand_hold (h : Option InHand) : (s.setInHand h).hold = s.hold := rfl
@[simp] theorem setInHand_plan (h : Option InHand) : (s.setInHand h).plan = s.plan := rfl
@[simp] theorem setInHand_ckpt (h : Option InHand) : (s.setInHand h).ckpt = s.ckpt := rfl
@[simp] theorem setInHand_store (h : Option InHand) : (s.setInHand h).store = s.store := rfl
@[simp] theorem setInHand_host (h : Option InHand) : (s.setInHand h).host = { s.host with inHand := h } := rfl
@[simp] theorem setInHand_alerts (h : Option InHand) : (s.setInHand h).alerts = s.alerts := rfl
@[simp] theorem setInHand_freeCount (h : Option InHand) : (s.setInHand h).freeCount = s.freeCount := rfl
@[simp] theorem setInHand_schedule (h : Option InHand) : (s.setInHand h).schedule = s.schedule := rfl
@[simp] theorem setInHand_pending (h : Option InHand) : (s.setInHand h).pending = s.pending := rfl

/-! `State.hostReceive` -/

@[simp] theorem hostReceive_powered (bytes : List Byte) : (s.hostReceive bytes).powered = s.powered := rfl
@[simp] theorem hostReceive_engine (bytes : List Byte) : (s.hostReceive bytes).engine = s.engine := rfl
@[simp] theorem hostReceive_clock (bytes : List Byte) : (s.hostReceive bytes).clock = s.clock := rfl
@[simp] theorem hostReceive_timer (bytes : List Byte) : (s.hostReceive bytes).timer = s.timer := rfl
@[simp] theorem hostReceive_options (bytes : List Byte) : (s.hostReceive bytes).options = s.options := rfl
@[simp] theorem hostReceive_elements (bytes : List Byte) : (s.hostReceive bytes).elements = s.elements := rfl
@[simp] theorem hostReceive_wear (bytes : List Byte) : (s.hostReceive bytes).wear = s.wear := rfl
@[simp] theorem hostReceive_routes (bytes : List Byte) : (s.hostReceive bytes).routes = s.routes := rfl
@[simp] theorem hostReceive_transports (bytes : List Byte) : (s.hostReceive bytes).transports = s.transports := rfl
@[simp] theorem hostReceive_snapshotTaken (bytes : List Byte) : (s.hostReceive bytes).snapshotTaken = s.snapshotTaken := rfl
@[simp] theorem hostReceive_line (bytes : List Byte) : (s.hostReceive bytes).line = s.line := rfl
@[simp] theorem hostReceive_hold (bytes : List Byte) : (s.hostReceive bytes).hold = s.hold := rfl
@[simp] theorem hostReceive_plan (bytes : List Byte) : (s.hostReceive bytes).plan = s.plan := rfl
@[simp] theorem hostReceive_ckpt (bytes : List Byte) : (s.hostReceive bytes).ckpt = s.ckpt := rfl
@[simp] theorem hostReceive_store (bytes : List Byte) : (s.hostReceive bytes).store = s.store := rfl
@[simp] theorem hostReceive_host (bytes : List Byte) : (s.hostReceive bytes).host = bytes.foldl (HostLink.receive s.engine) s.host := rfl
@[simp] theorem hostReceive_alerts (bytes : List Byte) : (s.hostReceive bytes).alerts = s.alerts := rfl
@[simp] theorem hostReceive_freeCount (bytes : List Byte) : (s.hostReceive bytes).freeCount = s.freeCount := rfl
@[simp] theorem hostReceive_schedule (bytes : List Byte) : (s.hostReceive bytes).schedule = s.schedule := rfl
@[simp] theorem hostReceive_pending (bytes : List Byte) : (s.hostReceive bytes).pending = s.pending := rfl

/-! `State.setLineRx` -/

@[simp] theorem setLineRx_powered (rx : LineRx) : (s.setLineRx rx).powered = s.powered := rfl
@[simp] theorem setLineRx_engine (rx : LineRx) : (s.setLineRx rx).engine = s.engine := rfl
@[simp] theorem setLineRx_clock (rx : LineRx) : (s.setLineRx rx).clock = s.clock := rfl
@[simp] theorem setLineRx_timer (rx : LineRx) : (s.setLineRx rx).timer = s.timer := rfl
@[simp] theorem setLineRx_options (rx : LineRx) : (s.setLineRx rx).options = s.options := rfl
@[simp] theorem setLineRx_elements (rx : LineRx) : (s.setLineRx rx).elements = s.elements := rfl
@[simp] theorem setLineRx_wear (rx : LineRx) : (s.setLineRx rx).wear = s.wear := rfl
@[simp] theorem setLineRx_routes (rx : LineRx) : (s.setLineRx rx).routes = s.routes := rfl
@[simp] theorem setLineRx_transports (rx : LineRx) : (s.setLineRx rx).transports = s.transports := rfl
@[simp] theorem setLineRx_snapshotTaken (rx : LineRx) : (s.setLineRx rx).snapshotTaken = s.snapshotTaken := rfl
@[simp] theorem setLineRx_line (rx : LineRx) : (s.setLineRx rx).line = { s.line with rx := rx } := rfl
@[simp] theorem setLineRx_hold (rx : LineRx) : (s.setLineRx rx).hold = s.hold := rfl
@[simp] theorem setLineRx_plan (rx : LineRx) : (s.setLineRx rx).plan = s.plan := rfl
@[simp] theorem setLineRx_ckpt (rx : LineRx) : (s.setLineRx rx).ckpt = s.ckpt := rfl
@[simp] theorem setLineRx_store (rx : LineRx) : (s.setLineRx rx).store = s.store := rfl
@[simp] theorem setLineRx_host (rx : LineRx) : (s.setLineRx rx).host = s.host := rfl
@[simp] theorem setLineRx_alerts (rx : LineRx) : (s.setLineRx rx).alerts = s.alerts := rfl
@[simp] theorem setLineRx_freeCount (rx : LineRx) : (s.setLineRx rx).freeCount = s.freeCount := rfl
@[simp] theorem setLineRx_schedule (rx : LineRx) : (s.setLineRx rx).schedule = s.schedule := rfl
@[simp] theorem setLineRx_pending (rx : LineRx) : (s.setLineRx rx).pending = s.pending := rfl

/-! `State.lineError` -/

@[simp] theorem lineError_powered (n : Nat) : (s.lineError n).powered = s.powered := rfl
@[simp] theorem lineError_engine (n : Nat) : (s.lineError n).engine = s.engine := rfl
@[simp] theorem lineError_clock (n : Nat) : (s.lineError n).clock = s.clock := rfl
@[simp] theorem lineError_timer (n : Nat) : (s.lineError n).timer = s.timer := rfl
@[simp] theorem lineError_options (n : Nat) : (s.lineError n).options = s.options := rfl
@[simp] theorem lineError_elements (n : Nat) : (s.lineError n).elements = s.elements := rfl
@[simp] theorem lineError_wear (n : Nat) : (s.lineError n).wear = s.wear := rfl
@[simp] theorem lineError_routes (n : Nat) : (s.lineError n).routes = s.routes := rfl
@[simp] theorem lineError_transports (n : Nat) : (s.lineError n).transports = s.transports := rfl
@[simp] theorem lineError_snapshotTaken (n : Nat) : (s.lineError n).snapshotTaken = s.snapshotTaken := rfl
@[simp] theorem lineError_line (n : Nat) : (s.lineError n).line = { s.line with errors := s.line.errors + 1 } := rfl
@[simp] theorem lineError_hold (n : Nat) : (s.lineError n).hold = s.hold := rfl
@[simp] theorem lineError_plan (n : Nat) : (s.lineError n).plan = s.plan := rfl
@[simp] theorem lineError_ckpt (n : Nat) : (s.lineError n).ckpt = s.ckpt := rfl
@[simp] theorem lineError_store (n : Nat) : (s.lineError n).store = s.store := rfl
@[simp] theorem lineError_host (n : Nat) : (s.lineError n).host = s.host := rfl
@[simp] theorem lineError_alerts (n : Nat) : (s.lineError n).alerts = s.alerts.take (.raised .lineFrameError n) := rfl
@[simp] theorem lineError_freeCount (n : Nat) : (s.lineError n).freeCount = s.freeCount := rfl
@[simp] theorem lineError_schedule (n : Nat) : (s.lineError n).schedule = s.schedule := rfl
@[simp] theorem lineError_pending (n : Nat) : (s.lineError n).pending = s.pending := rfl

/-! `State.countStray` -/

@[simp] theorem countStray_powered : (s.countStray).powered = s.powered := rfl
@[simp] theorem countStray_engine : (s.countStray).engine = s.engine := rfl
@[simp] theorem countStray_clock : (s.countStray).clock = s.clock := rfl
@[simp] theorem countStray_timer : (s.countStray).timer = s.timer := rfl
@[simp] theorem countStray_options : (s.countStray).options = s.options := rfl
@[simp] theorem countStray_elements : (s.countStray).elements = s.elements := rfl
@[simp] theorem countStray_wear : (s.countStray).wear = s.wear := rfl
@[simp] theorem countStray_routes : (s.countStray).routes = s.routes := rfl
@[simp] theorem countStray_transports : (s.countStray).transports = s.transports := rfl
@[simp] theorem countStray_snapshotTaken : (s.countStray).snapshotTaken = s.snapshotTaken := rfl
@[simp] theorem countStray_line : (s.countStray).line = { s.line with strays := s.line.strays + 1 } := rfl
@[simp] theorem countStray_hold : (s.countStray).hold = s.hold := rfl
@[simp] theorem countStray_plan : (s.countStray).plan = s.plan := rfl
@[simp] theorem countStray_ckpt : (s.countStray).ckpt = s.ckpt := rfl
@[simp] theorem countStray_store : (s.countStray).store = s.store := rfl
@[simp] theorem countStray_host : (s.countStray).host = s.host := rfl
@[simp] theorem countStray_alerts : (s.countStray).alerts = s.alerts := rfl
@[simp] theorem countStray_freeCount : (s.countStray).freeCount = s.freeCount := rfl
@[simp] theorem countStray_schedule : (s.countStray).schedule = s.schedule := rfl
@[simp] theorem countStray_pending : (s.countStray).pending = s.pending := rfl

/-! `State.setPlan` -/

@[simp] theorem setPlan_powered (p : PlanUnit) : (s.setPlan p).powered = s.powered := rfl
@[simp] theorem setPlan_engine (p : PlanUnit) : (s.setPlan p).engine = s.engine := rfl
@[simp] theorem setPlan_clock (p : PlanUnit) : (s.setPlan p).clock = s.clock := rfl
@[simp] theorem setPlan_timer (p : PlanUnit) : (s.setPlan p).timer = s.timer := rfl
@[simp] theorem setPlan_options (p : PlanUnit) : (s.setPlan p).options = s.options := rfl
@[simp] theorem setPlan_elements (p : PlanUnit) : (s.setPlan p).elements = s.elements := rfl
@[simp] theorem setPlan_wear (p : PlanUnit) : (s.setPlan p).wear = s.wear := rfl
@[simp] theorem setPlan_routes (p : PlanUnit) : (s.setPlan p).routes = s.routes := rfl
@[simp] theorem setPlan_transports (p : PlanUnit) : (s.setPlan p).transports = s.transports := rfl
@[simp] theorem setPlan_snapshotTaken (p : PlanUnit) : (s.setPlan p).snapshotTaken = s.snapshotTaken := rfl
@[simp] theorem setPlan_line (p : PlanUnit) : (s.setPlan p).line = s.line := rfl
@[simp] theorem setPlan_hold (p : PlanUnit) : (s.setPlan p).hold = s.hold := rfl
@[simp] theorem setPlan_plan (p : PlanUnit) : (s.setPlan p).plan = p := rfl
@[simp] theorem setPlan_ckpt (p : PlanUnit) : (s.setPlan p).ckpt = s.ckpt := rfl
@[simp] theorem setPlan_store (p : PlanUnit) : (s.setPlan p).store = s.store := rfl
@[simp] theorem setPlan_host (p : PlanUnit) : (s.setPlan p).host = s.host := rfl
@[simp] theorem setPlan_alerts (p : PlanUnit) : (s.setPlan p).alerts = s.alerts := rfl
@[simp] theorem setPlan_freeCount (p : PlanUnit) : (s.setPlan p).freeCount = s.freeCount := rfl
@[simp] theorem setPlan_schedule (p : PlanUnit) : (s.setPlan p).schedule = s.schedule := rfl
@[simp] theorem setPlan_pending (p : PlanUnit) : (s.setPlan p).pending = s.pending := rfl

/-! `State.takePlan` -/

@[simp] theorem takePlan_powered (r : PlanUnit × List AlertEvent) : (s.takePlan r).powered = s.powered := rfl
@[simp] theorem takePlan_engine (r : PlanUnit × List AlertEvent) : (s.takePlan r).engine = s.engine := rfl
@[simp] theorem takePlan_clock (r : PlanUnit × List AlertEvent) : (s.takePlan r).clock = s.clock := rfl
@[simp] theorem takePlan_timer (r : PlanUnit × List AlertEvent) : (s.takePlan r).timer = s.timer := rfl
@[simp] theorem takePlan_options (r : PlanUnit × List AlertEvent) : (s.takePlan r).options = s.options := rfl
@[simp] theorem takePlan_elements (r : PlanUnit × List AlertEvent) : (s.takePlan r).elements = s.elements := rfl
@[simp] theorem takePlan_wear (r : PlanUnit × List AlertEvent) : (s.takePlan r).wear = s.wear := rfl
@[simp] theorem takePlan_routes (r : PlanUnit × List AlertEvent) : (s.takePlan r).routes = s.routes := rfl
@[simp] theorem takePlan_transports (r : PlanUnit × List AlertEvent) : (s.takePlan r).transports = s.transports := rfl
@[simp] theorem takePlan_snapshotTaken (r : PlanUnit × List AlertEvent) : (s.takePlan r).snapshotTaken = s.snapshotTaken := rfl
@[simp] theorem takePlan_line (r : PlanUnit × List AlertEvent) : (s.takePlan r).line = s.line := rfl
@[simp] theorem takePlan_hold (r : PlanUnit × List AlertEvent) : (s.takePlan r).hold = s.hold := rfl
@[simp] theorem takePlan_plan (r : PlanUnit × List AlertEvent) : (s.takePlan r).plan = r.1 := rfl
@[simp] theorem takePlan_ckpt (r : PlanUnit × List AlertEvent) : (s.takePlan r).ckpt = s.ckpt := rfl
@[simp] theorem takePlan_store (r : PlanUnit × List AlertEvent) : (s.takePlan r).store = s.store := rfl
@[simp] theorem takePlan_host (r : PlanUnit × List AlertEvent) : (s.takePlan r).host = s.host := rfl
@[simp] theorem takePlan_alerts (r : PlanUnit × List AlertEvent) : (s.takePlan r).alerts = s.alerts.takeAll r.2 := rfl
@[simp] theorem takePlan_freeCount (r : PlanUnit × List AlertEvent) : (s.takePlan r).freeCount = s.freeCount := rfl
@[simp] theorem takePlan_schedule (r : PlanUnit × List AlertEvent) : (s.takePlan r).schedule = s.schedule := rfl
@[simp] theorem takePlan_pending (r : PlanUnit × List AlertEvent) : (s.takePlan r).pending = s.pending := rfl

/-! `State.replan` -/

@[simp] theorem replan_powered : (s.replan).powered = s.powered := rfl
@[simp] theorem replan_engine : (s.replan).engine = s.engine := rfl
@[simp] theorem replan_clock : (s.replan).clock = s.clock := rfl
@[simp] theorem replan_timer : (s.replan).timer = s.timer := rfl
@[simp] theorem replan_options : (s.replan).options = s.options := rfl
@[simp] theorem replan_elements : (s.replan).elements = s.elements := rfl
@[simp] theorem replan_wear : (s.replan).wear = s.wear := rfl
@[simp] theorem replan_routes : (s.replan).routes = s.routes := rfl
@[simp] theorem replan_transports : (s.replan).transports = s.transports := rfl
@[simp] theorem replan_snapshotTaken : (s.replan).snapshotTaken = s.snapshotTaken := rfl
@[simp] theorem replan_line : (s.replan).line = s.line := rfl
@[simp] theorem replan_hold : (s.replan).hold = s.hold := rfl
@[simp] theorem replan_plan : (s.replan).plan = s.replanOf.unit := rfl
@[simp] theorem replan_ckpt : (s.replan).ckpt = s.ckpt := rfl
@[simp] theorem replan_store : (s.replan).store = s.store := rfl
@[simp] theorem replan_host : (s.replan).host = s.host := rfl
@[simp] theorem replan_alerts : (s.replan).alerts = s.alerts.takeAll s.replanOf.alerts := rfl
@[simp] theorem replan_freeCount : (s.replan).freeCount = s.freeCount := rfl
@[simp] theorem replan_schedule : (s.replan).schedule = s.schedule := rfl
@[simp] theorem replan_pending : (s.replan).pending = s.pending := rfl

/-! `State.dropEntry` -/

@[simp] theorem dropEntry_powered (i : Nat) : (s.dropEntry i).powered = s.powered := rfl
@[simp] theorem dropEntry_engine (i : Nat) : (s.dropEntry i).engine = s.engine := rfl
@[simp] theorem dropEntry_clock (i : Nat) : (s.dropEntry i).clock = s.clock := rfl
@[simp] theorem dropEntry_timer (i : Nat) : (s.dropEntry i).timer = s.timer := rfl
@[simp] theorem dropEntry_options (i : Nat) : (s.dropEntry i).options = s.options := rfl
@[simp] theorem dropEntry_elements (i : Nat) : (s.dropEntry i).elements = s.elements := rfl
@[simp] theorem dropEntry_wear (i : Nat) : (s.dropEntry i).wear = s.wear := rfl
@[simp] theorem dropEntry_routes (i : Nat) : (s.dropEntry i).routes = s.routes := rfl
@[simp] theorem dropEntry_transports (i : Nat) : (s.dropEntry i).transports = s.transports := rfl
@[simp] theorem dropEntry_snapshotTaken (i : Nat) : (s.dropEntry i).snapshotTaken = s.snapshotTaken := rfl
@[simp] theorem dropEntry_line (i : Nat) : (s.dropEntry i).line = s.line := rfl
@[simp] theorem dropEntry_hold (i : Nat) : (s.dropEntry i).hold = s.hold := rfl
@[simp] theorem dropEntry_plan (i : Nat) : (s.dropEntry i).plan = (s.plan.removalNotice i).1 := rfl
@[simp] theorem dropEntry_ckpt (i : Nat) : (s.dropEntry i).ckpt = s.ckpt := rfl
@[simp] theorem dropEntry_store (i : Nat) : (s.dropEntry i).store = s.store := rfl
@[simp] theorem dropEntry_host (i : Nat) : (s.dropEntry i).host = s.host := rfl
@[simp] theorem dropEntry_alerts (i : Nat) : (s.dropEntry i).alerts = s.alerts.takeAll (s.plan.removalNotice i).2 := rfl
@[simp] theorem dropEntry_freeCount (i : Nat) : (s.dropEntry i).freeCount = s.freeCount := rfl
@[simp] theorem dropEntry_schedule (i : Nat) : (s.dropEntry i).schedule = s.schedule := rfl
@[simp] theorem dropEntry_pending (i : Nat) : (s.dropEntry i).pending = s.pending := rfl

/-! `State.reevaluate` -/

@[simp] theorem reevaluate_powered (t : Nat) : (s.reevaluate t).powered = s.powered := rfl
@[simp] theorem reevaluate_engine (t : Nat) : (s.reevaluate t).engine = s.engine := rfl
@[simp] theorem reevaluate_clock (t : Nat) : (s.reevaluate t).clock = s.clock := rfl
@[simp] theorem reevaluate_timer (t : Nat) : (s.reevaluate t).timer = s.timer := rfl
@[simp] theorem reevaluate_options (t : Nat) : (s.reevaluate t).options = s.options := rfl
@[simp] theorem reevaluate_elements (t : Nat) : (s.reevaluate t).elements = s.elements := rfl
@[simp] theorem reevaluate_wear (t : Nat) : (s.reevaluate t).wear = s.wear := rfl
@[simp] theorem reevaluate_routes (t : Nat) : (s.reevaluate t).routes = s.routes := rfl
@[simp] theorem reevaluate_transports (t : Nat) : (s.reevaluate t).transports = s.transports := rfl
@[simp] theorem reevaluate_snapshotTaken (t : Nat) : (s.reevaluate t).snapshotTaken = s.snapshotTaken := rfl
@[simp] theorem reevaluate_line (t : Nat) : (s.reevaluate t).line = s.line := rfl
@[simp] theorem reevaluate_hold (t : Nat) : (s.reevaluate t).hold = s.hold.reevaluate s.arbiterOn (s.wish t) t := rfl
@[simp] theorem reevaluate_plan (t : Nat) : (s.reevaluate t).plan = s.plan := rfl
@[simp] theorem reevaluate_ckpt (t : Nat) : (s.reevaluate t).ckpt = s.ckpt := rfl
@[simp] theorem reevaluate_store (t : Nat) : (s.reevaluate t).store = s.store := rfl
@[simp] theorem reevaluate_host (t : Nat) : (s.reevaluate t).host = s.host := rfl
@[simp] theorem reevaluate_alerts (t : Nat) : (s.reevaluate t).alerts = s.alerts := rfl
@[simp] theorem reevaluate_freeCount (t : Nat) : (s.reevaluate t).freeCount = s.freeCount := rfl
@[simp] theorem reevaluate_schedule (t : Nat) : (s.reevaluate t).schedule = s.schedule := rfl
@[simp] theorem reevaluate_pending (t : Nat) : (s.reevaluate t).pending = s.pending := rfl

/-! `State.waiveTransport` -/

@[simp] theorem waiveTransport_powered (t : Nat) : (s.waiveTransport t).powered = s.powered := rfl
@[simp] theorem waiveTransport_engine (t : Nat) : (s.waiveTransport t).engine = s.engine := rfl
@[simp] theorem waiveTransport_clock (t : Nat) : (s.waiveTransport t).clock = s.clock := rfl
@[simp] theorem waiveTransport_timer (t : Nat) : (s.waiveTransport t).timer = s.timer := rfl
@[simp] theorem waiveTransport_options (t : Nat) : (s.waiveTransport t).options = s.options := rfl
@[simp] theorem waiveTransport_elements (t : Nat) : (s.waiveTransport t).elements = tmap (waiveElement t) s.elements := rfl
@[simp] theorem waiveTransport_wear (t : Nat) : (s.waiveTransport t).wear = s.wear := rfl
@[simp] theorem waiveTransport_routes (t : Nat) : (s.waiveTransport t).routes = s.routes := rfl
@[simp] theorem waiveTransport_transports (t : Nat) : (s.waiveTransport t).transports = s.transports := rfl
@[simp] theorem waiveTransport_snapshotTaken (t : Nat) : (s.waiveTransport t).snapshotTaken = s.snapshotTaken := rfl
@[simp] theorem waiveTransport_line (t : Nat) : (s.waiveTransport t).line = s.line := rfl
@[simp] theorem waiveTransport_hold (t : Nat) : (s.waiveTransport t).hold = s.hold := rfl
@[simp] theorem waiveTransport_plan (t : Nat) : (s.waiveTransport t).plan = s.plan := rfl
@[simp] theorem waiveTransport_ckpt (t : Nat) : (s.waiveTransport t).ckpt = s.ckpt := rfl
@[simp] theorem waiveTransport_store (t : Nat) : (s.waiveTransport t).store = s.store := rfl
@[simp] theorem waiveTransport_host (t : Nat) : (s.waiveTransport t).host = s.host := rfl
@[simp] theorem waiveTransport_alerts (t : Nat) : (s.waiveTransport t).alerts = s.alerts := rfl
@[simp] theorem waiveTransport_freeCount (t : Nat) : (s.waiveTransport t).freeCount = s.freeCount := rfl
@[simp] theorem waiveTransport_schedule (t : Nat) : (s.waiveTransport t).schedule = s.schedule := rfl
@[simp] theorem waiveTransport_pending (t : Nat) : (s.waiveTransport t).pending = s.pending := rfl

/-! `State.handOff` -/

@[simp] theorem handOff_powered (o : Offer) (ev : Evaluation) : (s.handOff o ev).powered = s.powered := rfl
@[simp] theorem handOff_engine (o : Offer) (ev : Evaluation) : (s.handOff o ev).engine = s.engine := rfl
@[simp] theorem handOff_clock (o : Offer) (ev : Evaluation) : (s.handOff o ev).clock = s.clock := rfl
@[simp] theorem handOff_timer (o : Offer) (ev : Evaluation) : (s.handOff o ev).timer = s.timer := rfl
@[simp] theorem handOff_options (o : Offer) (ev : Evaluation) : (s.handOff o ev).options = s.options := rfl
@[simp] theorem handOff_elements (o : Offer) (ev : Evaluation) : (s.handOff o ev).elements = tset s.elements o.element { s.element o.element with position := .assigned ev.fitting } := rfl
@[simp] theorem handOff_wear (o : Offer) (ev : Evaluation) : (s.handOff o ev).wear = { s.wear with capture := (s.reported o ev).1 } := rfl
@[simp] theorem handOff_routes (o : Offer) (ev : Evaluation) : (s.handOff o ev).routes = s.routes := rfl
@[simp] theorem handOff_transports (o : Offer) (ev : Evaluation) : (s.handOff o ev).transports = s.transports := rfl
@[simp] theorem handOff_snapshotTaken (o : Offer) (ev : Evaluation) : (s.handOff o ev).snapshotTaken = s.snapshotTaken := rfl
@[simp] theorem handOff_line (o : Offer) (ev : Evaluation) : (s.handOff o ev).line = s.line := rfl
@[simp] theorem handOff_plan (o : Offer) (ev : Evaluation) : (s.handOff o ev).plan = (s.planNotice o.element ev).1 := rfl
@[simp] theorem handOff_ckpt (o : Offer) (ev : Evaluation) : (s.handOff o ev).ckpt = s.ckpt := rfl
@[simp] theorem handOff_store (o : Offer) (ev : Evaluation) : (s.handOff o ev).store = s.store := rfl
@[simp] theorem handOff_host (o : Offer) (ev : Evaluation) : (s.handOff o ev).host = s.host := rfl
@[simp] theorem handOff_alerts (o : Offer) (ev : Evaluation) : (s.handOff o ev).alerts = s.alerts.takeAll ((s.reported o ev).2 ++ (s.planNotice o.element ev).2) := rfl
@[simp] theorem handOff_freeCount (o : Offer) (ev : Evaluation) : (s.handOff o ev).freeCount = s.freeCount := rfl
@[simp] theorem handOff_schedule (o : Offer) (ev : Evaluation) : (s.handOff o ev).schedule = s.schedule := rfl
@[simp] theorem handOff_pending (o : Offer) (ev : Evaluation) : (s.handOff o ev).pending = s.pending := rfl

/-! `State.applyCharge` -/

@[simp] theorem applyCharge_powered (i : Nat) (f : Fitting) (c : Charge) : (s.applyCharge i f c).powered = s.powered := rfl
@[simp] theorem applyCharge_engine (i : Nat) (f : Fitting) (c : Charge) : (s.applyCharge i f c).engine = s.engine := rfl
@[simp] theorem applyCharge_clock (i : Nat) (f : Fitting) (c : Charge) : (s.applyCharge i f c).clock = s.clock := rfl
@[simp] theorem applyCharge_timer (i : Nat) (f : Fitting) (c : Charge) : (s.applyCharge i f c).timer = s.timer := rfl
@[simp] theorem applyCharge_options (i : Nat) (f : Fitting) (c : Charge) : (s.applyCharge i f c).options = s.options := rfl
@[simp] theorem applyCharge_routes (i : Nat) (f : Fitting) (c : Charge) : (s.applyCharge i f c).routes = s.routes := rfl
@[simp] theorem applyCharge_transports (i : Nat) (f : Fitting) (c : Charge) : (s.applyCharge i f c).transports = s.transports := rfl
@[simp] theorem applyCharge_snapshotTaken (i : Nat) (f : Fitting) (c : Charge) : (s.applyCharge i f c).snapshotTaken = s.snapshotTaken := rfl
@[simp] theorem applyCharge_line (i : Nat) (f : Fitting) (c : Charge) : (s.applyCharge i f c).line = s.line := rfl
@[simp] theorem applyCharge_ckpt (i : Nat) (f : Fitting) (c : Charge) : (s.applyCharge i f c).ckpt = s.ckpt := rfl
@[simp] theorem applyCharge_store (i : Nat) (f : Fitting) (c : Charge) : (s.applyCharge i f c).store = s.store := rfl
@[simp] theorem applyCharge_host (i : Nat) (f : Fitting) (c : Charge) : (s.applyCharge i f c).host = s.host := rfl
@[simp] theorem applyCharge_freeCount (i : Nat) (f : Fitting) (c : Charge) : (s.applyCharge i f c).freeCount = s.freeCount := rfl
@[simp] theorem applyCharge_schedule (i : Nat) (f : Fitting) (c : Charge) : (s.applyCharge i f c).schedule = s.schedule := rfl
@[simp] theorem applyCharge_pending (i : Nat) (f : Fitting) (c : Charge) : (s.applyCharge i f c).pending = s.pending := rfl

/-! `State.takeSample` -/

@[simp] theorem takeSample_powered (t drive belt : Nat) (valid : Bool) : (s.takeSample t drive belt valid).powered = s.powered := rfl
@[simp] theorem takeSample_engine (t drive belt : Nat) (valid : Bool) : (s.takeSample t drive belt valid).engine = s.engine := rfl
@[simp] theorem takeSample_clock (t drive belt : Nat) (valid : Bool) : (s.takeSample t drive belt valid).clock = s.clock := rfl
@[simp] theorem takeSample_timer (t drive belt : Nat) (valid : Bool) : (s.takeSample t drive belt valid).timer = s.timer := rfl
@[simp] theorem takeSample_options (t drive belt : Nat) (valid : Bool) : (s.takeSample t drive belt valid).options = s.options := rfl
@[simp] theorem takeSample_elements (t drive belt : Nat) (valid : Bool) : (s.takeSample t drive belt valid).elements = s.elements := rfl
@[simp] theorem takeSample_wear (t drive belt : Nat) (valid : Bool) : (s.takeSample t drive belt valid).wear = s.wear := rfl
@[simp] theorem takeSample_routes (t drive belt : Nat) (valid : Bool) : (s.takeSample t drive belt valid).routes = s.routes := rfl
@[simp] theorem takeSample_transports (t drive belt : Nat) (valid : Bool) : (s.takeSample t drive belt valid).transports = tset s.transports t ((s.transport t).sample s.options drive belt valid) := rfl
@[simp] theorem takeSample_snapshotTaken (t drive belt : Nat) (valid : Bool) : (s.takeSample t drive belt valid).snapshotTaken = s.snapshotTaken := rfl
@[simp] theorem takeSample_line (t drive belt : Nat) (valid : Bool) : (s.takeSample t drive belt valid).line = s.line := rfl
@[simp] theorem takeSample_hold (t drive belt : Nat) (valid : Bool) : (s.takeSample t drive belt valid).hold = s.hold := rfl
@[simp] theorem takeSample_plan (t drive belt : Nat) (valid : Bool) : (s.takeSample t drive belt valid).plan = s.plan := rfl
@[simp] theorem takeSample_ckpt (t drive belt : Nat) (valid : Bool) : (s.takeSample t drive belt valid).ckpt = s.ckpt := rfl
@[simp] theorem takeSample_store (t drive belt : Nat) (valid : Bool) : (s.takeSample t drive belt valid).store = s.store := rfl
@[simp] theorem takeSample_host (t drive belt : Nat) (valid : Bool) : (s.takeSample t drive belt valid).host = s.host := rfl
@[simp] theorem takeSample_freeCount (t drive belt : Nat) (valid : Bool) : (s.takeSample t drive belt valid).freeCount = s.freeCount := rfl
@[simp] theorem takeSample_schedule (t drive belt : Nat) (valid : Bool) : (s.takeSample t drive belt valid).schedule = s.schedule := rfl
@[simp] theorem takeSample_pending (t drive belt : Nat) (valid : Bool) : (s.takeSample t drive belt valid).pending = s.pending := rfl

/-! `State.routeItem` -/

@[simp] theorem routeItem_powered (it : Item) : (s.routeItem it).powered = s.powered := rfl
@[simp] theorem routeItem_engine (it : Item) : (s.routeItem it).engine = s.engine := rfl
@[simp] theorem routeItem_clock (it : Item) : (s.routeItem it).clock = s.clock := rfl
@[simp] theorem routeItem_timer (it : Item) : (s.routeItem it).timer = s.timer := rfl
@[simp] theorem routeItem_options (it : Item) : (s.routeItem it).options = s.options := rfl
@[simp] theorem routeItem_elements (it : Item) : (s.routeItem it).elements = s.elements := rfl
@[simp] theorem routeItem_wear (it : Item) : (s.routeItem it).wear = { s.wear with counted := s.wear.counted + 1 } := rfl
@[simp] theorem routeItem_routes (it : Item) : (s.routeItem it).routes = s.routes.counted it.key := rfl
@[simp] theorem routeItem_transports (it : Item) : (s.routeItem it).transports = s.transports := rfl
@[simp] theorem routeItem_snapshotTaken (it : Item) : (s.routeItem it).snapshotTaken = s.snapshotTaken := rfl
@[simp] theorem routeItem_line (it : Item) : (s.routeItem it).line = s.line := rfl
@[simp] theorem routeItem_hold (it : Item) : (s.routeItem it).hold = s.hold := rfl
@[simp] theorem routeItem_plan (it : Item) : (s.routeItem it).plan = s.plan := rfl
@[simp] theorem routeItem_ckpt (it : Item) : (s.routeItem it).ckpt = s.ckpt := rfl
@[simp] theorem routeItem_store (it : Item) : (s.routeItem it).store = s.store := rfl
@[simp] theorem routeItem_host (it : Item) : (s.routeItem it).host = s.host := rfl
@[simp] theorem routeItem_alerts (it : Item) : (s.routeItem it).alerts = s.alerts.takeAll (s.routes.routingAlerts it) := rfl
@[simp] theorem routeItem_freeCount (it : Item) : (s.routeItem it).freeCount = s.freeCount := rfl
@[simp] theorem routeItem_schedule (it : Item) : (s.routeItem it).schedule = s.schedule := rfl
@[simp] theorem routeItem_pending (it : Item) : (s.routeItem it).pending = s.pending := rfl

/-! `State.fit` -/

@[simp] theorem fit_powered (i : Nat) (f : Fitting) : (s.fit i f).powered = s.powered := rfl
@[simp] theorem fit_engine (i : Nat) (f : Fitting) : (s.fit i f).engine = s.engine := rfl
@[simp] theorem fit_clock (i : Nat) (f : Fitting) : (s.fit i f).clock = s.clock := rfl
@[simp] theorem fit_timer (i : Nat) (f : Fitting) : (s.fit i f).timer = s.timer := rfl
@[simp] theorem fit_options (i : Nat) (f : Fitting) : (s.fit i f).options = s.options := rfl
@[simp] theorem fit_elements (i : Nat) (f : Fitting) : (s.fit i f).elements = tset s.elements i ⟨(s.element i).generation + 1, .assigned f⟩ := rfl
@[simp] theorem fit_wear (i : Nat) (f : Fitting) : (s.fit i f).wear = s.wear.fittingNotice i := rfl
@[simp] theorem fit_routes (i : Nat) (f : Fitting) : (s.fit i f).routes = s.routes := rfl
@[simp] theorem fit_transports (i : Nat) (f : Fitting) : (s.fit i f).transports = s.transports := rfl
@[simp] theorem fit_snapshotTaken (i : Nat) (f : Fitting) : (s.fit i f).snapshotTaken = s.snapshotTaken := rfl
@[simp] theorem fit_line (i : Nat) (f : Fitting) : (s.fit i f).line = s.line := rfl
@[simp] theorem fit_hold (i : Nat) (f : Fitting) : (s.fit i f).hold = s.hold := rfl
@[simp] theorem fit_plan (i : Nat) (f : Fitting) : (s.fit i f).plan = s.plan := rfl
@[simp] theorem fit_ckpt (i : Nat) (f : Fitting) : (s.fit i f).ckpt = s.ckpt := rfl
@[simp] theorem fit_store (i : Nat) (f : Fitting) : (s.fit i f).store = s.store := rfl
@[simp] theorem fit_host (i : Nat) (f : Fitting) : (s.fit i f).host = s.host := rfl
@[simp] theorem fit_alerts (i : Nat) (f : Fitting) : (s.fit i f).alerts = s.alerts := rfl
@[simp] theorem fit_freeCount (i : Nat) (f : Fitting) : (s.fit i f).freeCount = s.freeCount := rfl
@[simp] theorem fit_schedule (i : Nat) (f : Fitting) : (s.fit i f).schedule = s.schedule := rfl
@[simp] theorem fit_pending (i : Nat) (f : Fitting) : (s.fit i f).pending = s.pending := rfl

/-! `State.vacate` -/

@[simp] theorem vacate_powered (i : Nat) : (s.vacate i).powered = s.powered := rfl
@[simp] theorem vacate_engine (i : Nat) : (s.vacate i).engine = s.engine := rfl
@[simp] theorem vacate_clock (i : Nat) : (s.vacate i).clock = s.clock := rfl
@[simp] theorem vacate_timer (i : Nat) : (s.vacate i).timer = s.timer := rfl
@[simp] theorem vacate_options (i : Nat) : (s.vacate i).options = s.options := rfl
@[simp] theorem vacate_elements (i : Nat) : (s.vacate i).elements = tset s.elements i ⟨(s.element i).generation, .vacant⟩ := rfl
@[simp] theorem vacate_wear (i : Nat) : (s.vacate i).wear = s.wear.fittingNotice i := rfl
@[simp] theorem vacate_routes (i : Nat) : (s.vacate i).routes = s.routes := rfl
@[simp] theorem vacate_transports (i : Nat) : (s.vacate i).transports = s.transports := rfl
@[simp] theorem vacate_snapshotTaken (i : Nat) : (s.vacate i).snapshotTaken = s.snapshotTaken := rfl
@[simp] theorem vacate_line (i : Nat) : (s.vacate i).line = s.line := rfl
@[simp] theorem vacate_hold (i : Nat) : (s.vacate i).hold = s.hold := rfl
@[simp] theorem vacate_plan (i : Nat) : (s.vacate i).plan = s.plan := rfl
@[simp] theorem vacate_ckpt (i : Nat) : (s.vacate i).ckpt = s.ckpt := rfl
@[simp] theorem vacate_store (i : Nat) : (s.vacate i).store = s.store := rfl
@[simp] theorem vacate_host (i : Nat) : (s.vacate i).host = s.host := rfl
@[simp] theorem vacate_alerts (i : Nat) : (s.vacate i).alerts = s.alerts := rfl
@[simp] theorem vacate_freeCount (i : Nat) : (s.vacate i).freeCount = s.freeCount := rfl
@[simp] theorem vacate_schedule (i : Nat) : (s.vacate i).schedule = s.schedule := rfl
@[simp] theorem vacate_pending (i : Nat) : (s.vacate i).pending = s.pending := rfl

/-! `State.beginCheckpoint` -/

@[simp] theorem beginCheckpoint_powered : (s.beginCheckpoint).powered = s.powered := rfl
@[simp] theorem beginCheckpoint_engine : (s.beginCheckpoint).engine = s.engine := rfl
@[simp] theorem beginCheckpoint_clock : (s.beginCheckpoint).clock = s.clock := rfl
@[simp] theorem beginCheckpoint_timer : (s.beginCheckpoint).timer = s.timer := rfl
@[simp] theorem beginCheckpoint_options : (s.beginCheckpoint).options = s.options := rfl
@[simp] theorem beginCheckpoint_elements : (s.beginCheckpoint).elements = s.elements := rfl
@[simp] theorem beginCheckpoint_wear : (s.beginCheckpoint).wear = s.wear := rfl
@[simp] theorem beginCheckpoint_routes : (s.beginCheckpoint).routes = s.routes := rfl
@[simp] theorem beginCheckpoint_transports : (s.beginCheckpoint).transports = s.transports := rfl
@[simp] theorem beginCheckpoint_snapshotTaken : (s.beginCheckpoint).snapshotTaken = s.snapshotTaken := rfl
@[simp] theorem beginCheckpoint_line : (s.beginCheckpoint).line = s.line := rfl
@[simp] theorem beginCheckpoint_hold : (s.beginCheckpoint).hold = s.hold := rfl
@[simp] theorem beginCheckpoint_plan : (s.beginCheckpoint).plan = s.plan := rfl
@[simp] theorem beginCheckpoint_store : (s.beginCheckpoint).store = s.store := rfl
@[simp] theorem beginCheckpoint_host : (s.beginCheckpoint).host = s.host := rfl
@[simp] theorem beginCheckpoint_alerts : (s.beginCheckpoint).alerts = s.alerts := rfl
@[simp] theorem beginCheckpoint_freeCount : (s.beginCheckpoint).freeCount = s.freeCount := rfl
@[simp] theorem beginCheckpoint_schedule : (s.beginCheckpoint).schedule = s.schedule := rfl
@[simp] theorem beginCheckpoint_pending : (s.beginCheckpoint).pending = s.pending := rfl

/-! `State.restoreElements` -/

@[simp] theorem restoreElements_powered (st : Store) : (s.restoreElements st).powered = s.powered := rfl
@[simp] theorem restoreElements_engine (st : Store) : (s.restoreElements st).engine = s.engine := rfl
@[simp] theorem restoreElements_clock (st : Store) : (s.restoreElements st).clock = s.clock := rfl
@[simp] theorem restoreElements_timer (st : Store) : (s.restoreElements st).timer = s.timer := rfl
@[simp] theorem restoreElements_options (st : Store) : (s.restoreElements st).options = s.options := rfl
@[simp] theorem restoreElements_elements (st : Store) : (s.restoreElements st).elements = st.restored := rfl
@[simp] theorem restoreElements_wear (st : Store) : (s.restoreElements st).wear = s.wear := rfl
@[simp] theorem restoreElements_routes (st : Store) : (s.restoreElements st).routes = s.routes := rfl
@[simp] theorem restoreElements_transports (st : Store) : (s.restoreElements st).transports = s.transports := rfl
@[simp] theorem restoreElements_snapshotTaken (st : Store) : (s.restoreElements st).snapshotTaken = s.snapshotTaken := rfl
@[simp] theorem restoreElements_line (st : Store) : (s.restoreElements st).line = s.line := rfl
@[simp] theorem restoreElements_hold (st : Store) : (s.restoreElements st).hold = s.hold := rfl
@[simp] theorem restoreElements_plan (st : Store) : (s.restoreElements st).plan = s.plan := rfl
@[simp] theorem restoreElements_store (st : Store) : (s.restoreElements st).store = s.store := rfl
@[simp] theorem restoreElements_host (st : Store) : (s.restoreElements st).host = s.host := rfl
@[simp] theorem restoreElements_alerts (st : Store) : (s.restoreElements st).alerts = s.alerts.takeAll st.restoreAlerts := rfl
@[simp] theorem restoreElements_freeCount (st : Store) : (s.restoreElements st).freeCount = s.freeCount := rfl
@[simp] theorem restoreElements_schedule (st : Store) : (s.restoreElements st).schedule = s.schedule := rfl
@[simp] theorem restoreElements_pending (st : Store) : (s.restoreElements st).pending = s.pending := rfl

/-! `State.putClock` -/

@[simp] theorem putClock_powered (v : Nat) : (s.putClock v).powered = s.powered := rfl
@[simp] theorem putClock_engine (v : Nat) : (s.putClock v).engine = s.engine := rfl
@[simp] theorem putClock_clock (v : Nat) : (s.putClock v).clock = some v := rfl
@[simp] theorem putClock_timer (v : Nat) : (s.putClock v).timer = s.timer := rfl
@[simp] theorem putClock_options (v : Nat) : (s.putClock v).options = s.options := rfl
@[simp] theorem putClock_elements (v : Nat) : (s.putClock v).elements = s.elements := rfl
@[simp] theorem putClock_wear (v : Nat) : (s.putClock v).wear = s.wear := rfl
@[simp] theorem putClock_routes (v : Nat) : (s.putClock v).routes = s.routes := rfl
@[simp] theorem putClock_transports (v : Nat) : (s.putClock v).transports = s.transports := rfl
@[simp] theorem putClock_snapshotTaken (v : Nat) : (s.putClock v).snapshotTaken = s.snapshotTaken := rfl
@[simp] theorem putClock_line (v : Nat) : (s.putClock v).line = s.line := rfl
@[simp] theorem putClock_hold (v : Nat) : (s.putClock v).hold = s.hold := rfl
@[simp] theorem putClock_plan (v : Nat) : (s.putClock v).plan = s.plan := rfl
@[simp] theorem putClock_ckpt (v : Nat) : (s.putClock v).ckpt = s.ckpt := rfl
@[simp] theorem putClock_store (v : Nat) : (s.putClock v).store = s.store := rfl
@[simp] theorem putClock_host (v : Nat) : (s.putClock v).host = s.host := rfl
@[simp] theorem putClock_freeCount (v : Nat) : (s.putClock v).freeCount = s.freeCount := rfl
@[simp] theorem putClock_schedule (v : Nat) : (s.putClock v).schedule = s.schedule := rfl
@[simp] theorem putClock_pending (v : Nat) : (s.putClock v).pending = s.pending := rfl

/-! `State.countTick` -/

@[simp] theorem countTick_powered : (s.countTick).powered = s.powered := rfl
@[simp] theorem countTick_engine : (s.countTick).engine = s.engine := rfl
@[simp] theorem countTick_clock : (s.countTick).clock = advancedClock s.clock := rfl
@[simp] theorem countTick_options : (s.countTick).options = s.options := rfl
@[simp] theorem countTick_elements : (s.countTick).elements = s.elements := rfl
@[simp] theorem countTick_wear : (s.countTick).wear = s.wear := rfl
@[simp] theorem countTick_routes : (s.countTick).routes = s.routes := rfl
@[simp] theorem countTick_transports : (s.countTick).transports = s.transports := rfl
@[simp] theorem countTick_snapshotTaken : (s.countTick).snapshotTaken = s.snapshotTaken := rfl
@[simp] theorem countTick_line : (s.countTick).line = s.line := rfl
@[simp] theorem countTick_hold : (s.countTick).hold = s.hold := rfl
@[simp] theorem countTick_plan : (s.countTick).plan = s.plan := rfl
@[simp] theorem countTick_ckpt : (s.countTick).ckpt = s.ckpt := rfl
@[simp] theorem countTick_store : (s.countTick).store = s.store := rfl
@[simp] theorem countTick_host : (s.countTick).host = s.host := rfl
@[simp] theorem countTick_alerts : (s.countTick).alerts = s.alerts.takeAll (clockAlerts s.clock (advancedClock s.clock)) := rfl
@[simp] theorem countTick_freeCount : (s.countTick).freeCount = s.freeCount := rfl
@[simp] theorem countTick_schedule : (s.countTick).schedule = s.schedule := rfl
@[simp] theorem countTick_pending : (s.countTick).pending = s.pending := rfl

/-! `State.expireSlot` -/

@[simp] theorem expireSlot_powered (k : Nat) : (s.expireSlot k).powered = s.powered := rfl
@[simp] theorem expireSlot_engine (k : Nat) : (s.expireSlot k).engine = s.engine := rfl
@[simp] theorem expireSlot_clock (k : Nat) : (s.expireSlot k).clock = s.clock := rfl
@[simp] theorem expireSlot_timer (k : Nat) : (s.expireSlot k).timer = s.timer := rfl
@[simp] theorem expireSlot_options (k : Nat) : (s.expireSlot k).options = s.options := rfl
@[simp] theorem expireSlot_elements (k : Nat) : (s.expireSlot k).elements = s.elements := rfl
@[simp] theorem expireSlot_wear (k : Nat) : (s.expireSlot k).wear = s.wear := rfl
@[simp] theorem expireSlot_routes (k : Nat) : (s.expireSlot k).routes = s.routes := rfl
@[simp] theorem expireSlot_transports (k : Nat) : (s.expireSlot k).transports = s.transports := rfl
@[simp] theorem expireSlot_snapshotTaken (k : Nat) : (s.expireSlot k).snapshotTaken = s.snapshotTaken := rfl
@[simp] theorem expireSlot_line (k : Nat) : (s.expireSlot k).line = s.line := rfl
@[simp] theorem expireSlot_hold (k : Nat) : (s.expireSlot k).hold = (s.hold.expire s.arbiterOn s.options.deferral k).1 := rfl
@[simp] theorem expireSlot_plan (k : Nat) : (s.expireSlot k).plan = s.plan := rfl
@[simp] theorem expireSlot_ckpt (k : Nat) : (s.expireSlot k).ckpt = s.ckpt := rfl
@[simp] theorem expireSlot_store (k : Nat) : (s.expireSlot k).store = s.store := rfl
@[simp] theorem expireSlot_host (k : Nat) : (s.expireSlot k).host = s.host := rfl
@[simp] theorem expireSlot_alerts (k : Nat) : (s.expireSlot k).alerts = s.alerts.takeAll (s.hold.expire s.arbiterOn s.options.deferral k).2 := rfl
@[simp] theorem expireSlot_freeCount (k : Nat) : (s.expireSlot k).freeCount = s.freeCount := rfl
@[simp] theorem expireSlot_schedule (k : Nat) : (s.expireSlot k).schedule = s.schedule := rfl
@[simp] theorem expireSlot_pending (k : Nat) : (s.expireSlot k).pending = s.pending := rfl

/-! `State.clearAllCounts` -/

@[simp] theorem clearAllCounts_powered : (s.clearAllCounts).powered = s.powered := rfl
@[simp] theorem clearAllCounts_engine : (s.clearAllCounts).engine = s.engine := rfl
@[simp] theorem clearAllCounts_clock : (s.clearAllCounts).clock = s.clock := rfl
@[simp] theorem clearAllCounts_timer : (s.clearAllCounts).timer = s.timer := rfl
@[simp] theorem clearAllCounts_options : (s.clearAllCounts).options = s.options := rfl
@[simp] theorem clearAllCounts_elements : (s.clearAllCounts).elements = s.elements := rfl
@[simp] theorem clearAllCounts_wear : (s.clearAllCounts).wear = s.clearedItems := rfl
@[simp] theorem clearAllCounts_routes : (s.clearAllCounts).routes = s.routes.clearCounts := rfl
@[simp] theorem clearAllCounts_transports : (s.clearAllCounts).transports = s.transports := rfl
@[simp] theorem clearAllCounts_snapshotTaken : (s.clearAllCounts).snapshotTaken = s.snapshotTaken := rfl
@[simp] theorem clearAllCounts_line : (s.clearAllCounts).line = s.line.clearCounts := rfl
@[simp] theorem clearAllCounts_hold : (s.clearAllCounts).hold = s.hold := rfl
@[simp] theorem clearAllCounts_plan : (s.clearAllCounts).plan = s.plan := rfl
@[simp] theorem clearAllCounts_ckpt : (s.clearAllCounts).ckpt = s.ckpt := rfl
@[simp] theorem clearAllCounts_store : (s.clearAllCounts).store = s.store := rfl
@[simp] theorem clearAllCounts_host : (s.clearAllCounts).host = s.host := rfl
@[simp] theorem clearAllCounts_alerts : (s.clearAllCounts).alerts = s.alerts := rfl
@[simp] theorem clearAllCounts_freeCount : (s.clearAllCounts).freeCount = s.freeCount := rfl
@[simp] theorem clearAllCounts_schedule : (s.clearAllCounts).schedule = s.schedule := rfl
@[simp] theorem clearAllCounts_pending : (s.clearAllCounts).pending = s.pending := rfl

/-! `State.clearItemCounts` -/

@[simp] theorem clearItemCounts_powered : (s.clearItemCounts).powered = s.powered := rfl
@[simp] theorem clearItemCounts_engine : (s.clearItemCounts).engine = s.engine := rfl
@[simp] theorem clearItemCounts_clock : (s.clearItemCounts).clock = s.clock := rfl
@[simp] theorem clearItemCounts_timer : (s.clearItemCounts).timer = s.timer := rfl
@[simp] theorem clearItemCounts_options : (s.clearItemCounts).options = s.options := rfl
@[simp] theorem clearItemCounts_elements : (s.clearItemCounts).elements = s.elements := rfl
@[simp] theorem clearItemCounts_wear : (s.clearItemCounts).wear = s.clearedItems := rfl
@[simp] theorem clearItemCounts_routes : (s.clearItemCounts).routes = s.routes.clearCounts := rfl
@[simp] theorem clearItemCounts_transports : (s.clearItemCounts).transports = s.transports := rfl
@[simp] theorem clearItemCounts_snapshotTaken : (s.clearItemCounts).snapshotTaken = s.snapshotTaken := rfl
@[simp] theorem clearItemCounts_line : (s.clearItemCounts).line = s.line := rfl
@[simp] theorem clearItemCounts_hold : (s.clearItemCounts).hold = s.hold := rfl
@[simp] theorem clearItemCounts_plan : (s.clearItemCounts).plan = s.plan := rfl
@[simp] theorem clearItemCounts_ckpt : (s.clearItemCounts).ckpt = s.ckpt := rfl
@[simp] theorem clearItemCounts_store : (s.clearItemCounts).store = s.store := rfl
@[simp] theorem clearItemCounts_host : (s.clearItemCounts).host = s.host := rfl
@[simp] theorem clearItemCounts_alerts : (s.clearItemCounts).alerts = s.alerts := rfl
@[simp] theorem clearItemCounts_freeCount : (s.clearItemCounts).freeCount = s.freeCount := rfl
@[simp] theorem clearItemCounts_schedule : (s.clearItemCounts).schedule = s.schedule := rfl
@[simp] theorem clearItemCounts_pending : (s.clearItemCounts).pending = s.pending := rfl

/-! `State.clearFetched` -/

@[simp] theorem clearFetched_powered (mask : BitVec 32) : (s.clearFetched mask).powered = s.powered := rfl
@[simp] theorem clearFetched_engine (mask : BitVec 32) : (s.clearFetched mask).engine = s.engine := rfl
@[simp] theorem clearFetched_clock (mask : BitVec 32) : (s.clearFetched mask).clock = s.clock := rfl
@[simp] theorem clearFetched_timer (mask : BitVec 32) : (s.clearFetched mask).timer = s.timer := rfl
@[simp] theorem clearFetched_options (mask : BitVec 32) : (s.clearFetched mask).options = s.options := rfl
@[simp] theorem clearFetched_elements (mask : BitVec 32) : (s.clearFetched mask).elements = s.elements := rfl
@[simp] theorem clearFetched_wear (mask : BitVec 32) : (s.clearFetched mask).wear = s.wear := rfl
@[simp] theorem clearFetched_routes (mask : BitVec 32) : (s.clearFetched mask).routes = s.routes := rfl
@[simp] theorem clearFetched_transports (mask : BitVec 32) : (s.clearFetched mask).transports = s.transports := rfl
@[simp] theorem clearFetched_snapshotTaken (mask : BitVec 32) : (s.clearFetched mask).snapshotTaken = s.snapshotTaken := rfl
@[simp] theorem clearFetched_line (mask : BitVec 32) : (s.clearFetched mask).line = s.line := rfl
@[simp] theorem clearFetched_hold (mask : BitVec 32) : (s.clearFetched mask).hold = s.hold := rfl
@[simp] theorem clearFetched_plan (mask : BitVec 32) : (s.clearFetched mask).plan = s.plan := rfl
@[simp] theorem clearFetched_ckpt (mask : BitVec 32) : (s.clearFetched mask).ckpt = s.ckpt := rfl
@[simp] theorem clearFetched_store (mask : BitVec 32) : (s.clearFetched mask).store = s.store := rfl
@[simp] theorem clearFetched_host (mask : BitVec 32) : (s.clearFetched mask).host = s.host := rfl
@[simp] theorem clearFetched_freeCount (mask : BitVec 32) : (s.clearFetched mask).freeCount = s.freeCount := rfl
@[simp] theorem clearFetched_schedule (mask : BitVec 32) : (s.clearFetched mask).schedule = s.schedule := rfl
@[simp] theorem clearFetched_pending (mask : BitVec 32) : (s.clearFetched mask).pending = s.pending := rfl

/-! `State.afterSampling` -/

@[simp] theorem afterSampling_powered : (s.afterSampling).powered = s.powered := rfl
@[simp] theorem afterSampling_engine : (s.afterSampling).engine = s.engine := rfl
@[simp] theorem afterSampling_clock : (s.afterSampling).clock = s.clock := rfl
@[simp] theorem afterSampling_timer : (s.afterSampling).timer = s.timer := rfl
@[simp] theorem afterSampling_options : (s.afterSampling).options = s.options := rfl
@[simp] theorem afterSampling_elements : (s.afterSampling).elements = s.elements := rfl
@[simp] theorem afterSampling_wear : (s.afterSampling).wear = s.wear := rfl
@[simp] theorem afterSampling_routes : (s.afterSampling).routes = s.routes := rfl
@[simp] theorem afterSampling_transports : (s.afterSampling).transports = s.transports := rfl
@[simp] theorem afterSampling_snapshotTaken : (s.afterSampling).snapshotTaken = s.snapshotTaken := rfl
@[simp] theorem afterSampling_line : (s.afterSampling).line = s.line := rfl
@[simp] theorem afterSampling_hold : (s.afterSampling).hold = s.hold := rfl
@[simp] theorem afterSampling_plan : (s.afterSampling).plan = s.plan := rfl
@[simp] theorem afterSampling_ckpt : (s.afterSampling).ckpt = s.ckpt := rfl
@[simp] theorem afterSampling_store : (s.afterSampling).store = s.store := rfl
@[simp] theorem afterSampling_host : (s.afterSampling).host = s.host := rfl
@[simp] theorem afterSampling_alerts : (s.afterSampling).alerts = s.alerts := rfl
@[simp] theorem afterSampling_freeCount : (s.afterSampling).freeCount = s.freeCount + 4 := rfl
@[simp] theorem afterSampling_schedule : (s.afterSampling).schedule = s.schedule := rfl
@[simp] theorem afterSampling_pending : (s.afterSampling).pending = s.pending := rfl

/-! `State.cutTaken` -/

@[simp] theorem cutTaken_powered : (s.cutTaken).powered = s.powered := rfl
@[simp] theorem cutTaken_engine : (s.cutTaken).engine = s.engine := rfl
@[simp] theorem cutTaken_clock : (s.cutTaken).clock = s.clock := rfl
@[simp] theorem cutTaken_timer : (s.cutTaken).timer = s.timer := rfl
@[simp] theorem cutTaken_options : (s.cutTaken).options = s.options := rfl
@[simp] theorem cutTaken_elements : (s.cutTaken).elements = s.elements := rfl
@[simp] theorem cutTaken_wear : (s.cutTaken).wear = s.wear := rfl
@[simp] theorem cutTaken_routes : (s.cutTaken).routes = s.routes := rfl
@[simp] theorem cutTaken_transports : (s.cutTaken).transports = s.transports := rfl
@[simp] theorem cutTaken_snapshotTaken : (s.cutTaken).snapshotTaken = s.snapshotTaken := rfl
@[simp] theorem cutTaken_line : (s.cutTaken).line = s.line := rfl
@[simp] theorem cutTaken_hold : (s.cutTaken).hold = s.hold := rfl
@[simp] theorem cutTaken_plan : (s.cutTaken).plan = s.plan := rfl
@[simp] theorem cutTaken_ckpt : (s.cutTaken).ckpt = s.ckpt := rfl
@[simp] theorem cutTaken_store : (s.cutTaken).store = s.store := rfl
@[simp] theorem cutTaken_host : (s.cutTaken).host = s.host := rfl
@[simp] theorem cutTaken_alerts : (s.cutTaken).alerts = s.alerts := rfl
@[simp] theorem cutTaken_freeCount : (s.cutTaken).freeCount = s.freeCount := rfl
@[simp] theorem cutTaken_schedule : (s.cutTaken).schedule = { s.schedule with cuts := s.schedule.cuts.tail } := rfl
@[simp] theorem cutTaken_pending : (s.cutTaken).pending = s.pending := rfl

/-! `State.promptTaken` -/

@[simp] theorem promptTaken_powered : (s.promptTaken).powered = s.powered := rfl
@[simp] theorem promptTaken_engine : (s.promptTaken).engine = s.engine := rfl
@[simp] theorem promptTaken_clock : (s.promptTaken).clock = s.clock := rfl
@[simp] theorem promptTaken_timer : (s.promptTaken).timer = s.timer := rfl
@[simp] theorem promptTaken_options : (s.promptTaken).options = s.options := rfl
@[simp] theorem promptTaken_elements : (s.promptTaken).elements = s.elements := rfl
@[simp] theorem promptTaken_wear : (s.promptTaken).wear = s.wear := rfl
@[simp] theorem promptTaken_routes : (s.promptTaken).routes = s.routes := rfl
@[simp] theorem promptTaken_transports : (s.promptTaken).transports = s.transports := rfl
@[simp] theorem promptTaken_snapshotTaken : (s.promptTaken).snapshotTaken = s.snapshotTaken := rfl
@[simp] theorem promptTaken_line : (s.promptTaken).line = s.line := rfl
@[simp] theorem promptTaken_hold : (s.promptTaken).hold = s.hold := rfl
@[simp] theorem promptTaken_plan : (s.promptTaken).plan = s.plan := rfl
@[simp] theorem promptTaken_ckpt : (s.promptTaken).ckpt = s.ckpt := rfl
@[simp] theorem promptTaken_store : (s.promptTaken).store = s.store := rfl
@[simp] theorem promptTaken_host : (s.promptTaken).host = s.host := rfl
@[simp] theorem promptTaken_alerts : (s.promptTaken).alerts = s.alerts := rfl
@[simp] theorem promptTaken_freeCount : (s.promptTaken).freeCount = s.freeCount := rfl
@[simp] theorem promptTaken_schedule : (s.promptTaken).schedule = { s.schedule with prompts := s.schedule.prompts.tail } := rfl
@[simp] theorem promptTaken_pending : (s.promptTaken).pending = s.pending := rfl

/-! `State.setWork` -/

@[simp] theorem setWork_powered (w : Option RecordWork) : (s.setWork w).powered = s.powered := rfl
@[simp] theorem setWork_engine (w : Option RecordWork) : (s.setWork w).engine = s.engine := rfl
@[simp] theorem setWork_clock (w : Option RecordWork) : (s.setWork w).clock = s.clock := rfl
@[simp] theorem setWork_timer (w : Option RecordWork) : (s.setWork w).timer = s.timer := rfl
@[simp] theorem setWork_options (w : Option RecordWork) : (s.setWork w).options = s.options := rfl
@[simp] theorem setWork_elements (w : Option RecordWork) : (s.setWork w).elements = s.elements := rfl
@[simp] theorem setWork_wear (w : Option RecordWork) : (s.setWork w).wear = { s.wear with work := w } := rfl
@[simp] theorem setWork_routes (w : Option RecordWork) : (s.setWork w).routes = s.routes := rfl
@[simp] theorem setWork_transports (w : Option RecordWork) : (s.setWork w).transports = s.transports := rfl
@[simp] theorem setWork_snapshotTaken (w : Option RecordWork) : (s.setWork w).snapshotTaken = s.snapshotTaken := rfl
@[simp] theorem setWork_line (w : Option RecordWork) : (s.setWork w).line = s.line := rfl
@[simp] theorem setWork_hold (w : Option RecordWork) : (s.setWork w).hold = s.hold := rfl
@[simp] theorem setWork_plan (w : Option RecordWork) : (s.setWork w).plan = s.plan := rfl
@[simp] theorem setWork_ckpt (w : Option RecordWork) : (s.setWork w).ckpt = s.ckpt := rfl
@[simp] theorem setWork_store (w : Option RecordWork) : (s.setWork w).store = s.store := rfl
@[simp] theorem setWork_host (w : Option RecordWork) : (s.setWork w).host = s.host := rfl
@[simp] theorem setWork_alerts (w : Option RecordWork) : (s.setWork w).alerts = s.alerts := rfl
@[simp] theorem setWork_freeCount (w : Option RecordWork) : (s.setWork w).freeCount = s.freeCount := rfl
@[simp] theorem setWork_schedule (w : Option RecordWork) : (s.setWork w).schedule = s.schedule := rfl
@[simp] theorem setWork_pending (w : Option RecordWork) : (s.setWork w).pending = s.pending := rfl

/-! `State.recordDone` -/

@[simp] theorem recordDone_powered : (s.recordDone).powered = s.powered := rfl
@[simp] theorem recordDone_engine : (s.recordDone).engine = s.engine := rfl
@[simp] theorem recordDone_clock : (s.recordDone).clock = s.clock := rfl
@[simp] theorem recordDone_timer : (s.recordDone).timer = { s.timer with boundary := s.timer.boundary.map BoundaryMark.afterRecord } := rfl
@[simp] theorem recordDone_options : (s.recordDone).options = s.options := rfl
@[simp] theorem recordDone_elements : (s.recordDone).elements = s.elements := rfl
@[simp] theorem recordDone_wear : (s.recordDone).wear = { s.wear with work := none } := rfl
@[simp] theorem recordDone_routes : (s.recordDone).routes = s.routes := rfl
@[simp] theorem recordDone_transports : (s.recordDone).transports = s.transports := rfl
@[simp] theorem recordDone_snapshotTaken : (s.recordDone).snapshotTaken = s.snapshotTaken := rfl
@[simp] theorem recordDone_line : (s.recordDone).line = s.line := rfl
@[simp] theorem recordDone_hold : (s.recordDone).hold = s.hold := rfl
@[simp] theorem recordDone_plan : (s.recordDone).plan = s.plan := rfl
@[simp] theorem recordDone_ckpt : (s.recordDone).ckpt = s.ckpt := rfl
@[simp] theorem recordDone_store : (s.recordDone).store = s.store := rfl
@[simp] theorem recordDone_host : (s.recordDone).host = s.host := rfl
@[simp] theorem recordDone_alerts : (s.recordDone).alerts = s.alerts := rfl
@[simp] theorem recordDone_freeCount : (s.recordDone).freeCount = s.freeCount := rfl
@[simp] theorem recordDone_schedule : (s.recordDone).schedule = s.schedule := rfl
@[simp] theorem recordDone_pending : (s.recordDone).pending = s.pending := rfl

/-! `State.setBoundary` -/

@[simp] theorem setBoundary_powered (b : Option BoundaryMark) : (s.setBoundary b).powered = s.powered := rfl
@[simp] theorem setBoundary_engine (b : Option BoundaryMark) : (s.setBoundary b).engine = s.engine := rfl
@[simp] theorem setBoundary_clock (b : Option BoundaryMark) : (s.setBoundary b).clock = s.clock := rfl
@[simp] theorem setBoundary_timer (b : Option BoundaryMark) : (s.setBoundary b).timer = { s.timer with boundary := b } := rfl
@[simp] theorem setBoundary_options (b : Option BoundaryMark) : (s.setBoundary b).options = s.options := rfl
@[simp] theorem setBoundary_elements (b : Option BoundaryMark) : (s.setBoundary b).elements = s.elements := rfl
@[simp] theorem setBoundary_wear (b : Option BoundaryMark) : (s.setBoundary b).wear = s.wear := rfl
@[simp] theorem setBoundary_routes (b : Option BoundaryMark) : (s.setBoundary b).routes = s.routes := rfl
@[simp] theorem setBoundary_transports (b : Option BoundaryMark) : (s.setBoundary b).transports = s.transports := rfl
@[simp] theorem setBoundary_snapshotTaken (b : Option BoundaryMark) : (s.setBoundary b).snapshotTaken = s.snapshotTaken := rfl
@[simp] theorem setBoundary_line (b : Option BoundaryMark) : (s.setBoundary b).line = s.line := rfl
@[simp] theorem setBoundary_hold (b : Option BoundaryMark) : (s.setBoundary b).hold = s.hold := rfl
@[simp] theorem setBoundary_plan (b : Option BoundaryMark) : (s.setBoundary b).plan = s.plan := rfl
@[simp] theorem setBoundary_ckpt (b : Option BoundaryMark) : (s.setBoundary b).ckpt = s.ckpt := rfl
@[simp] theorem setBoundary_store (b : Option BoundaryMark) : (s.setBoundary b).store = s.store := rfl
@[simp] theorem setBoundary_host (b : Option BoundaryMark) : (s.setBoundary b).host = s.host := rfl
@[simp] theorem setBoundary_alerts (b : Option BoundaryMark) : (s.setBoundary b).alerts = s.alerts := rfl
@[simp] theorem setBoundary_freeCount (b : Option BoundaryMark) : (s.setBoundary b).freeCount = s.freeCount := rfl
@[simp] theorem setBoundary_schedule (b : Option BoundaryMark) : (s.setBoundary b).schedule = s.schedule := rfl
@[simp] theorem setBoundary_pending (b : Option BoundaryMark) : (s.setBoundary b).pending = s.pending := rfl

/-! ### Updates that branch -/

/-! `triggerCheckpoint` -/

@[simp] theorem triggerCheckpoint_powered : (s.triggerCheckpoint).powered = s.powered := by unfold State.triggerCheckpoint; split <;> rfl
@[simp] theorem triggerCheckpoint_engine : (s.triggerCheckpoint).engine = s.engine := by unfold State.triggerCheckpoint; split <;> rfl
@[simp] theorem triggerCheckpoint_clock : (s.triggerCheckpoint).clock = s.clock := by unfold State.triggerCheckpoint; split <;> rfl
@[simp] theorem triggerCheckpoint_timer : (s.triggerCheckpoint).timer = s.timer := by unfold State.triggerCheckpoint; split <;> rfl
@[simp] theorem triggerCheckpoint_options : (s.triggerCheckpoint).options = s.options := by unfold State.triggerCheckpoint; split <;> rfl
@[simp] theorem triggerCheckpoint_elements : (s.triggerCheckpoint).elements = s.elements := by unfold State.triggerCheckpoint; split <;> rfl
@[simp] theorem triggerCheckpoint_wear : (s.triggerCheckpoint).wear = s.wear := by unfold State.triggerCheckpoint; split <;> rfl
@[simp] theorem triggerCheckpoint_routes : (s.triggerCheckpoint).routes = s.routes := by unfold State.triggerCheckpoint; split <;> rfl
@[simp] theorem triggerCheckpoint_transports : (s.triggerCheckpoint).transports = s.transports := by unfold State.triggerCheckpoint; split <;> rfl
@[simp] theorem triggerCheckpoint_snapshotTaken : (s.triggerCheckpoint).snapshotTaken = s.snapshotTaken := by unfold State.triggerCheckpoint; split <;> rfl
@[simp] theorem triggerCheckpoint_line : (s.triggerCheckpoint).line = s.line := by unfold State.triggerCheckpoint; split <;> rfl
@[simp] theorem triggerCheckpoint_hold : (s.triggerCheckpoint).hold = s.hold := by unfold State.triggerCheckpoint; split <;> rfl
@[simp] theorem triggerCheckpoint_plan : (s.triggerCheckpoint).plan = s.plan := by unfold State.triggerCheckpoint; split <;> rfl
@[simp] theorem triggerCheckpoint_store : (s.triggerCheckpoint).store = s.store := by unfold State.triggerCheckpoint; split <;> rfl
@[simp] theorem triggerCheckpoint_host : (s.triggerCheckpoint).host = s.host := by unfold State.triggerCheckpoint; split <;> rfl
@[simp] theorem triggerCheckpoint_alerts : (s.triggerCheckpoint).alerts = s.alerts := by unfold State.triggerCheckpoint; split <;> rfl
@[simp] theorem triggerCheckpoint_freeCount : (s.triggerCheckpoint).freeCount = s.freeCount := by unfold State.triggerCheckpoint; split <;> rfl
@[simp] theorem triggerCheckpoint_schedule : (s.triggerCheckpoint).schedule = s.schedule := by unfold State.triggerCheckpoint; split <;> rfl
@[simp] theorem triggerCheckpoint_pending : (s.triggerCheckpoint).pending = s.pending := by unfold State.triggerCheckpoint; split <;> rfl

/-! `rollComplete` -/

@[simp] theorem rollComplete_powered : (s.rollComplete).powered = s.powered := by unfold State.rollComplete; split <;> simp
@[simp] theorem rollComplete_engine : (s.rollComplete).engine = s.engine := by unfold State.rollComplete; split <;> simp
@[simp] theorem rollComplete_clock : (s.rollComplete).clock = s.clock := by unfold State.rollComplete; split <;> simp
@[simp] theorem rollComplete_timer : (s.rollComplete).timer = s.timer := by unfold State.rollComplete; split <;> simp
@[simp] theorem rollComplete_options : (s.rollComplete).options = s.options := by unfold State.rollComplete; split <;> simp
@[simp] theorem rollComplete_elements : (s.rollComplete).elements = s.elements := by unfold State.rollComplete; split <;> simp
@[simp] theorem rollComplete_wear : (s.rollComplete).wear = s.wear := by unfold State.rollComplete; split <;> simp
@[simp] theorem rollComplete_routes : (s.rollComplete).routes = s.routes := by unfold State.rollComplete; split <;> simp
@[simp] theorem rollComplete_transports : (s.rollComplete).transports = s.transports := by unfold State.rollComplete; split <;> simp
@[simp] theorem rollComplete_snapshotTaken : (s.rollComplete).snapshotTaken = s.snapshotTaken := by unfold State.rollComplete; split <;> simp
@[simp] theorem rollComplete_line : (s.rollComplete).line = s.line := by unfold State.rollComplete; split <;> simp
@[simp] theorem rollComplete_hold : (s.rollComplete).hold = s.hold := by unfold State.rollComplete; split <;> simp
@[simp] theorem rollComplete_store : (s.rollComplete).store = s.store := by unfold State.rollComplete; split <;> simp
@[simp] theorem rollComplete_host : (s.rollComplete).host = s.host := by unfold State.rollComplete; split <;> simp
@[simp] theorem rollComplete_freeCount : (s.rollComplete).freeCount = s.freeCount := by unfold State.rollComplete; split <;> simp
@[simp] theorem rollComplete_schedule : (s.rollComplete).schedule = s.schedule := by unfold State.rollComplete; split <;> simp
@[simp] theorem rollComplete_pending : (s.rollComplete).pending = s.pending := by unfold State.rollComplete; split <;> simp

/-! `deliverPlanTick` -/

@[simp] theorem deliverPlanTick_powered : (s.deliverPlanTick).powered = s.powered := by unfold State.deliverPlanTick; split <;> rfl
@[simp] theorem deliverPlanTick_engine : (s.deliverPlanTick).engine = s.engine := by unfold State.deliverPlanTick; split <;> rfl
@[simp] theorem deliverPlanTick_clock : (s.deliverPlanTick).clock = s.clock := by unfold State.deliverPlanTick; split <;> rfl
@[simp] theorem deliverPlanTick_options : (s.deliverPlanTick).options = s.options := by unfold State.deliverPlanTick; split <;> rfl
@[simp] theorem deliverPlanTick_elements : (s.deliverPlanTick).elements = s.elements := by unfold State.deliverPlanTick; split <;> rfl
@[simp] theorem deliverPlanTick_wear : (s.deliverPlanTick).wear = s.wear := by unfold State.deliverPlanTick; split <;> rfl
@[simp] theorem deliverPlanTick_routes : (s.deliverPlanTick).routes = s.routes := by unfold State.deliverPlanTick; split <;> rfl
@[simp] theorem deliverPlanTick_transports : (s.deliverPlanTick).transports = s.transports := by unfold State.deliverPlanTick; split <;> rfl
@[simp] theorem deliverPlanTick_snapshotTaken : (s.deliverPlanTick).snapshotTaken = s.snapshotTaken := by unfold State.deliverPlanTick; split <;> rfl
@[simp] theorem deliverPlanTick_line : (s.deliverPlanTick).line = s.line := by unfold State.deliverPlanTick; split <;> rfl
@[simp] theorem deliverPlanTick_hold : (s.deliverPlanTick).hold = s.hold := by unfold State.deliverPlanTick; split <;> rfl
@[simp] theorem deliverPlanTick_ckpt : (s.deliverPlanTick).ckpt = s.ckpt := by unfold State.deliverPlanTick; split <;> rfl
@[simp] theorem deliverPlanTick_store : (s.deliverPlanTick).store = s.store := by unfold State.deliverPlanTick; split <;> rfl
@[simp] theorem deliverPlanTick_host : (s.deliverPlanTick).host = s.host := by unfold State.deliverPlanTick; split <;> rfl
@[simp] theorem deliverPlanTick_freeCount : (s.deliverPlanTick).freeCount = s.freeCount := by unfold State.deliverPlanTick; split <;> rfl
@[simp] theorem deliverPlanTick_schedule : (s.deliverPlanTick).schedule = s.schedule := by unfold State.deliverPlanTick; split <;> rfl
@[simp] theorem deliverPlanTick_pending : (s.deliverPlanTick).pending = s.pending := by unfold State.deliverPlanTick; split <;> rfl

/-! `deliverHoldTick` -/

@[simp] theorem deliverHoldTick_powered : (s.deliverHoldTick).powered = s.powered := by unfold State.deliverHoldTick; split <;> rfl
@[simp] theorem deliverHoldTick_engine : (s.deliverHoldTick).engine = s.engine := by unfold State.deliverHoldTick; split <;> rfl
@[simp] theorem deliverHoldTick_clock : (s.deliverHoldTick).clock = s.clock := by unfold State.deliverHoldTick; split <;> rfl
@[simp] theorem deliverHoldTick_options : (s.deliverHoldTick).options = s.options := by unfold State.deliverHoldTick; split <;> rfl
@[simp] theorem deliverHoldTick_elements : (s.deliverHoldTick).elements = s.elements := by unfold State.deliverHoldTick; split <;> rfl
@[simp] theorem deliverHoldTick_wear : (s.deliverHoldTick).wear = s.wear := by unfold State.deliverHoldTick; split <;> rfl
@[simp] theorem deliverHoldTick_routes : (s.deliverHoldTick).routes = s.routes := by unfold State.deliverHoldTick; split <;> rfl
@[simp] theorem deliverHoldTick_transports : (s.deliverHoldTick).transports = s.transports := by unfold State.deliverHoldTick; split <;> rfl
@[simp] theorem deliverHoldTick_snapshotTaken : (s.deliverHoldTick).snapshotTaken = s.snapshotTaken := by unfold State.deliverHoldTick; split <;> rfl
@[simp] theorem deliverHoldTick_line : (s.deliverHoldTick).line = s.line := by unfold State.deliverHoldTick; split <;> rfl
@[simp] theorem deliverHoldTick_plan : (s.deliverHoldTick).plan = s.plan := by unfold State.deliverHoldTick; split <;> rfl
@[simp] theorem deliverHoldTick_ckpt : (s.deliverHoldTick).ckpt = s.ckpt := by unfold State.deliverHoldTick; split <;> rfl
@[simp] theorem deliverHoldTick_store : (s.deliverHoldTick).store = s.store := by unfold State.deliverHoldTick; split <;> rfl
@[simp] theorem deliverHoldTick_host : (s.deliverHoldTick).host = s.host := by unfold State.deliverHoldTick; split <;> rfl
@[simp] theorem deliverHoldTick_alerts : (s.deliverHoldTick).alerts = s.alerts := by unfold State.deliverHoldTick; split <;> rfl
@[simp] theorem deliverHoldTick_freeCount : (s.deliverHoldTick).freeCount = s.freeCount := by unfold State.deliverHoldTick; split <;> rfl
@[simp] theorem deliverHoldTick_schedule : (s.deliverHoldTick).schedule = s.schedule := by unfold State.deliverHoldTick; split <;> rfl
@[simp] theorem deliverHoldTick_pending : (s.deliverHoldTick).pending = s.pending := by unfold State.deliverHoldTick; split <;> rfl

/-! `deliverSnapshot` -/

@[simp] theorem deliverSnapshot_powered : (s.deliverSnapshot).powered = s.powered := by unfold State.deliverSnapshot; split <;> rfl
@[simp] theorem deliverSnapshot_engine : (s.deliverSnapshot).engine = s.engine := by unfold State.deliverSnapshot; split <;> rfl
@[simp] theorem deliverSnapshot_clock : (s.deliverSnapshot).clock = s.clock := by unfold State.deliverSnapshot; split <;> rfl
@[simp] theorem deliverSnapshot_options : (s.deliverSnapshot).options = s.options := by unfold State.deliverSnapshot; split <;> rfl
@[simp] theorem deliverSnapshot_elements : (s.deliverSnapshot).elements = s.elements := by unfold State.deliverSnapshot; split <;> rfl
@[simp] theorem deliverSnapshot_wear : (s.deliverSnapshot).wear = s.wear := by unfold State.deliverSnapshot; split <;> rfl
@[simp] theorem deliverSnapshot_routes : (s.deliverSnapshot).routes = s.routes := by unfold State.deliverSnapshot; split <;> rfl
@[simp] theorem deliverSnapshot_line : (s.deliverSnapshot).line = s.line := by unfold State.deliverSnapshot; split <;> rfl
@[simp] theorem deliverSnapshot_hold : (s.deliverSnapshot).hold = s.hold := by unfold State.deliverSnapshot; split <;> rfl
@[simp] theorem deliverSnapshot_plan : (s.deliverSnapshot).plan = s.plan := by unfold State.deliverSnapshot; split <;> rfl
@[simp] theorem deliverSnapshot_ckpt : (s.deliverSnapshot).ckpt = s.ckpt := by unfold State.deliverSnapshot; split <;> rfl
@[simp] theorem deliverSnapshot_store : (s.deliverSnapshot).store = s.store := by unfold State.deliverSnapshot; split <;> rfl
@[simp] theorem deliverSnapshot_host : (s.deliverSnapshot).host = s.host := by unfold State.deliverSnapshot; split <;> rfl
@[simp] theorem deliverSnapshot_alerts : (s.deliverSnapshot).alerts = s.alerts := by unfold State.deliverSnapshot; split <;> rfl
@[simp] theorem deliverSnapshot_freeCount : (s.deliverSnapshot).freeCount = s.freeCount := by unfold State.deliverSnapshot; split <;> rfl
@[simp] theorem deliverSnapshot_schedule : (s.deliverSnapshot).schedule = s.schedule := by unfold State.deliverSnapshot; split <;> rfl
@[simp] theorem deliverSnapshot_pending : (s.deliverSnapshot).pending = s.pending := by unfold State.deliverSnapshot; split <;> rfl

/-! `rollOn` -/

@[simp] theorem rollOn_powered (carried : Option Nat) (next : Nat) (examined : Option Nat) : (s.rollOn carried next examined).powered = s.powered := by unfold State.rollOn; simp only []; split <;> simp
@[simp] theorem rollOn_engine (carried : Option Nat) (next : Nat) (examined : Option Nat) : (s.rollOn carried next examined).engine = s.engine := by unfold State.rollOn; simp only []; split <;> simp
@[simp] theorem rollOn_clock (carried : Option Nat) (next : Nat) (examined : Option Nat) : (s.rollOn carried next examined).clock = s.clock := by unfold State.rollOn; simp only []; split <;> simp
@[simp] theorem rollOn_options (carried : Option Nat) (next : Nat) (examined : Option Nat) : (s.rollOn carried next examined).options = s.options := by unfold State.rollOn; simp only []; split <;> simp
@[simp] theorem rollOn_wear (carried : Option Nat) (next : Nat) (examined : Option Nat) : (s.rollOn carried next examined).wear = s.wear := by unfold State.rollOn; simp only []; split <;> simp
@[simp] theorem rollOn_routes (carried : Option Nat) (next : Nat) (examined : Option Nat) : (s.rollOn carried next examined).routes = s.routes := by unfold State.rollOn; simp only []; split <;> simp
@[simp] theorem rollOn_transports (carried : Option Nat) (next : Nat) (examined : Option Nat) : (s.rollOn carried next examined).transports = s.transports := by unfold State.rollOn; simp only []; split <;> simp
@[simp] theorem rollOn_snapshotTaken (carried : Option Nat) (next : Nat) (examined : Option Nat) : (s.rollOn carried next examined).snapshotTaken = s.snapshotTaken := by unfold State.rollOn; simp only []; split <;> simp
@[simp] theorem rollOn_line (carried : Option Nat) (next : Nat) (examined : Option Nat) : (s.rollOn carried next examined).line = s.line := by unfold State.rollOn; simp only []; split <;> simp
@[simp] theorem rollOn_hold (carried : Option Nat) (next : Nat) (examined : Option Nat) : (s.rollOn carried next examined).hold = s.hold := by unfold State.rollOn; simp only []; split <;> simp
@[simp] theorem rollOn_store (carried : Option Nat) (next : Nat) (examined : Option Nat) : (s.rollOn carried next examined).store = s.store := by unfold State.rollOn; simp only []; split <;> simp
@[simp] theorem rollOn_host (carried : Option Nat) (next : Nat) (examined : Option Nat) : (s.rollOn carried next examined).host = s.host := by unfold State.rollOn; simp only []; split <;> simp
@[simp] theorem rollOn_freeCount (carried : Option Nat) (next : Nat) (examined : Option Nat) : (s.rollOn carried next examined).freeCount = s.freeCount := by unfold State.rollOn; simp only []; split <;> simp
@[simp] theorem rollOn_schedule (carried : Option Nat) (next : Nat) (examined : Option Nat) : (s.rollOn carried next examined).schedule = s.schedule := by unfold State.rollOn; simp only []; split <;> simp
@[simp] theorem rollOn_pending (carried : Option Nat) (next : Nat) (examined : Option Nat) : (s.rollOn carried next examined).pending = s.pending := by unfold State.rollOn; simp only []; split <;> simp

/-! `tickHolds` -/

@[simp] theorem tickHolds_powered : (s.tickHolds).powered = s.powered := by unfold State.tickHolds; split <;> rfl
@[simp] theorem tickHolds_engine : (s.tickHolds).engine = s.engine := by unfold State.tickHolds; split <;> rfl
@[simp] theorem tickHolds_clock : (s.tickHolds).clock = s.clock := by unfold State.tickHolds; split <;> rfl
@[simp] theorem tickHolds_options : (s.tickHolds).options = s.options := by unfold State.tickHolds; split <;> rfl
@[simp] theorem tickHolds_elements : (s.tickHolds).elements = s.elements := by unfold State.tickHolds; split <;> rfl
@[simp] theorem tickHolds_wear : (s.tickHolds).wear = s.wear := by unfold State.tickHolds; split <;> rfl
@[simp] theorem tickHolds_routes : (s.tickHolds).routes = s.routes := by unfold State.tickHolds; split <;> rfl
@[simp] theorem tickHolds_transports : (s.tickHolds).transports = s.transports := by unfold State.tickHolds; split <;> rfl
@[simp] theorem tickHolds_snapshotTaken : (s.tickHolds).snapshotTaken = s.snapshotTaken := by unfold State.tickHolds; split <;> rfl
@[simp] theorem tickHolds_line : (s.tickHolds).line = s.line := by unfold State.tickHolds; split <;> rfl
@[simp] theorem tickHolds_plan : (s.tickHolds).plan = s.plan := by unfold State.tickHolds; split <;> rfl
@[simp] theorem tickHolds_ckpt : (s.tickHolds).ckpt = s.ckpt := by unfold State.tickHolds; split <;> rfl
@[simp] theorem tickHolds_store : (s.tickHolds).store = s.store := by unfold State.tickHolds; split <;> rfl
@[simp] theorem tickHolds_host : (s.tickHolds).host = s.host := by unfold State.tickHolds; split <;> rfl
@[simp] theorem tickHolds_alerts : (s.tickHolds).alerts = s.alerts := by unfold State.tickHolds; split <;> rfl
@[simp] theorem tickHolds_freeCount : (s.tickHolds).freeCount = s.freeCount := by unfold State.tickHolds; split <;> rfl
@[simp] theorem tickHolds_schedule : (s.tickHolds).schedule = s.schedule := by unfold State.tickHolds; split <;> rfl
@[simp] theorem tickHolds_pending : (s.tickHolds).pending = s.pending := by unfold State.tickHolds; split <;> rfl

/-! `tickPlan` -/

@[simp] theorem tickPlan_powered (carried : Option Nat) : (s.tickPlan carried).powered = s.powered := by unfold State.tickPlan; (repeat' split) <;> rfl
@[simp] theorem tickPlan_engine (carried : Option Nat) : (s.tickPlan carried).engine = s.engine := by unfold State.tickPlan; (repeat' split) <;> rfl
@[simp] theorem tickPlan_clock (carried : Option Nat) : (s.tickPlan carried).clock = s.clock := by unfold State.tickPlan; (repeat' split) <;> rfl
@[simp] theorem tickPlan_options (carried : Option Nat) : (s.tickPlan carried).options = s.options := by unfold State.tickPlan; (repeat' split) <;> rfl
@[simp] theorem tickPlan_elements (carried : Option Nat) : (s.tickPlan carried).elements = s.elements := by unfold State.tickPlan; (repeat' split) <;> rfl
@[simp] theorem tickPlan_wear (carried : Option Nat) : (s.tickPlan carried).wear = s.wear := by unfold State.tickPlan; (repeat' split) <;> rfl
@[simp] theorem tickPlan_routes (carried : Option Nat) : (s.tickPlan carried).routes = s.routes := by unfold State.tickPlan; (repeat' split) <;> rfl
@[simp] theorem tickPlan_transports (carried : Option Nat) : (s.tickPlan carried).transports = s.transports := by unfold State.tickPlan; (repeat' split) <;> rfl
@[simp] theorem tickPlan_snapshotTaken (carried : Option Nat) : (s.tickPlan carried).snapshotTaken = s.snapshotTaken := by unfold State.tickPlan; (repeat' split) <;> rfl
@[simp] theorem tickPlan_line (carried : Option Nat) : (s.tickPlan carried).line = s.line := by unfold State.tickPlan; (repeat' split) <;> rfl
@[simp] theorem tickPlan_hold (carried : Option Nat) : (s.tickPlan carried).hold = s.hold := by unfold State.tickPlan; (repeat' split) <;> rfl
@[simp] theorem tickPlan_ckpt (carried : Option Nat) : (s.tickPlan carried).ckpt = s.ckpt := by unfold State.tickPlan; (repeat' split) <;> rfl
@[simp] theorem tickPlan_store (carried : Option Nat) : (s.tickPlan carried).store = s.store := by unfold State.tickPlan; (repeat' split) <;> rfl
@[simp] theorem tickPlan_host (carried : Option Nat) : (s.tickPlan carried).host = s.host := by unfold State.tickPlan; (repeat' split) <;> rfl
@[simp] theorem tickPlan_freeCount (carried : Option Nat) : (s.tickPlan carried).freeCount = s.freeCount := by unfold State.tickPlan; (repeat' split) <;> rfl
@[simp] theorem tickPlan_schedule (carried : Option Nat) : (s.tickPlan carried).schedule = s.schedule := by unfold State.tickPlan; (repeat' split) <;> rfl
@[simp] theorem tickPlan_pending (carried : Option Nat) : (s.tickPlan carried).pending = s.pending := by unfold State.tickPlan; (repeat' split) <;> rfl

/-! `endCheckpoint` -/

@[simp] theorem endCheckpoint_powered : (s.endCheckpoint).powered = s.powered := by unfold State.endCheckpoint; simp only []; split <;> split <;> rfl
@[simp] theorem endCheckpoint_engine : (s.endCheckpoint).engine = s.engine := by unfold State.endCheckpoint; simp only []; split <;> split <;> rfl
@[simp] theorem endCheckpoint_clock : (s.endCheckpoint).clock = s.clock := by unfold State.endCheckpoint; simp only []; split <;> split <;> rfl
@[simp] theorem endCheckpoint_timer : (s.endCheckpoint).timer = s.timer := by unfold State.endCheckpoint; simp only []; split <;> split <;> rfl
@[simp] theorem endCheckpoint_options : (s.endCheckpoint).options = s.options := by unfold State.endCheckpoint; simp only []; split <;> split <;> rfl
@[simp] theorem endCheckpoint_elements : (s.endCheckpoint).elements = s.elements := by unfold State.endCheckpoint; simp only []; split <;> split <;> rfl
@[simp] theorem endCheckpoint_wear : (s.endCheckpoint).wear = s.wear := by unfold State.endCheckpoint; simp only []; split <;> split <;> rfl
@[simp] theorem endCheckpoint_routes : (s.endCheckpoint).routes = s.routes := by unfold State.endCheckpoint; simp only []; split <;> split <;> rfl
@[simp] theorem endCheckpoint_transports : (s.endCheckpoint).transports = s.transports := by unfold State.endCheckpoint; simp only []; split <;> split <;> rfl
@[simp] theorem endCheckpoint_snapshotTaken : (s.endCheckpoint).snapshotTaken = s.snapshotTaken := by unfold State.endCheckpoint; simp only []; split <;> split <;> rfl
@[simp] theorem endCheckpoint_line : (s.endCheckpoint).line = s.line := by unfold State.endCheckpoint; simp only []; split <;> split <;> rfl
@[simp] theorem endCheckpoint_hold : (s.endCheckpoint).hold = s.hold := by unfold State.endCheckpoint; simp only []; split <;> split <;> rfl
@[simp] theorem endCheckpoint_plan : (s.endCheckpoint).plan = s.plan := by unfold State.endCheckpoint; simp only []; split <;> split <;> rfl
@[simp] theorem endCheckpoint_store : (s.endCheckpoint).store = s.store := by unfold State.endCheckpoint; simp only []; split <;> split <;> rfl
@[simp] theorem endCheckpoint_host : (s.endCheckpoint).host = s.host := by unfold State.endCheckpoint; simp only []; split <;> split <;> rfl
@[simp] theorem endCheckpoint_freeCount : (s.endCheckpoint).freeCount = s.freeCount := by unfold State.endCheckpoint; simp only []; split <;> split <;> rfl
@[simp] theorem endCheckpoint_schedule : (s.endCheckpoint).schedule = s.schedule := by unfold State.endCheckpoint; simp only []; split <;> split <;> rfl
@[simp] theorem endCheckpoint_pending : (s.endCheckpoint).pending = s.pending := by unfold State.endCheckpoint; simp only []; split <;> split <;> rfl

/-! `nextRecord` -/

@[simp] theorem nextRecord_powered (place : Nat) : (s.nextRecord place).powered = s.powered := by unfold State.nextRecord; split <;> simp
@[simp] theorem nextRecord_engine (place : Nat) : (s.nextRecord place).engine = s.engine := by unfold State.nextRecord; split <;> simp
@[simp] theorem nextRecord_clock (place : Nat) : (s.nextRecord place).clock = s.clock := by unfold State.nextRecord; split <;> simp
@[simp] theorem nextRecord_timer (place : Nat) : (s.nextRecord place).timer = s.timer := by unfold State.nextRecord; split <;> simp
@[simp] theorem nextRecord_options (place : Nat) : (s.nextRecord place).options = s.options := by unfold State.nextRecord; split <;> simp
@[simp] theorem nextRecord_elements (place : Nat) : (s.nextRecord place).elements = s.elements := by unfold State.nextRecord; split <;> simp
@[simp] theorem nextRecord_wear (place : Nat) : (s.nextRecord place).wear = s.wear := by unfold State.nextRecord; split <;> simp
@[simp] theorem nextRecord_routes (place : Nat) : (s.nextRecord place).routes = s.routes := by unfold State.nextRecord; split <;> simp
@[simp] theorem nextRecord_transports (place : Nat) : (s.nextRecord place).transports = s.transports := by unfold State.nextRecord; split <;> simp
@[simp] theorem nextRecord_snapshotTaken (place : Nat) : (s.nextRecord place).snapshotTaken = s.snapshotTaken := by unfold State.nextRecord; split <;> simp
@[simp] theorem nextRecord_line (place : Nat) : (s.nextRecord place).line = s.line := by unfold State.nextRecord; split <;> simp
@[simp] theorem nextRecord_hold (place : Nat) : (s.nextRecord place).hold = s.hold := by unfold State.nextRecord; split <;> simp
@[simp] theorem nextRecord_plan (place : Nat) : (s.nextRecord place).plan = s.plan := by unfold State.nextRecord; split <;> simp
@[simp] theorem nextRecord_store (place : Nat) : (s.nextRecord place).store = s.store := by unfold State.nextRecord; split <;> simp
@[simp] theorem nextRecord_host (place : Nat) : (s.nextRecord place).host = s.host := by unfold State.nextRecord; split <;> simp
@[simp] theorem nextRecord_freeCount (place : Nat) : (s.nextRecord place).freeCount = s.freeCount := by unfold State.nextRecord; split <;> simp
@[simp] theorem nextRecord_schedule (place : Nat) : (s.nextRecord place).schedule = s.schedule := by unfold State.nextRecord; split <;> simp
@[simp] theorem nextRecord_pending (place : Nat) : (s.nextRecord place).pending = s.pending := by unfold State.nextRecord; split <;> simp

/-! `finishRecord` -/

@[simp] theorem finishRecord_powered (copy : RecordCopy) (result : WriteResult) : (s.finishRecord copy result).powered = s.powered := by simp [State.finishRecord]
@[simp] theorem finishRecord_engine (copy : RecordCopy) (result : WriteResult) : (s.finishRecord copy result).engine = s.engine := by simp [State.finishRecord]
@[simp] theorem finishRecord_clock (copy : RecordCopy) (result : WriteResult) : (s.finishRecord copy result).clock = s.clock := by simp [State.finishRecord]
@[simp] theorem finishRecord_timer (copy : RecordCopy) (result : WriteResult) : (s.finishRecord copy result).timer = s.timer := by simp [State.finishRecord]
@[simp] theorem finishRecord_options (copy : RecordCopy) (result : WriteResult) : (s.finishRecord copy result).options = s.options := by simp [State.finishRecord]
@[simp] theorem finishRecord_elements (copy : RecordCopy) (result : WriteResult) : (s.finishRecord copy result).elements = s.elements := by simp [State.finishRecord]
@[simp] theorem finishRecord_wear (copy : RecordCopy) (result : WriteResult) : (s.finishRecord copy result).wear = s.wear := by simp [State.finishRecord]
@[simp] theorem finishRecord_routes (copy : RecordCopy) (result : WriteResult) : (s.finishRecord copy result).routes = s.routes := by simp [State.finishRecord]
@[simp] theorem finishRecord_transports (copy : RecordCopy) (result : WriteResult) : (s.finishRecord copy result).transports = s.transports := by simp [State.finishRecord]
@[simp] theorem finishRecord_snapshotTaken (copy : RecordCopy) (result : WriteResult) : (s.finishRecord copy result).snapshotTaken = s.snapshotTaken := by simp [State.finishRecord]
@[simp] theorem finishRecord_line (copy : RecordCopy) (result : WriteResult) : (s.finishRecord copy result).line = s.line := by simp [State.finishRecord]
@[simp] theorem finishRecord_hold (copy : RecordCopy) (result : WriteResult) : (s.finishRecord copy result).hold = s.hold := by simp [State.finishRecord]
@[simp] theorem finishRecord_plan (copy : RecordCopy) (result : WriteResult) : (s.finishRecord copy result).plan = s.plan := by simp [State.finishRecord]
@[simp] theorem finishRecord_host (copy : RecordCopy) (result : WriteResult) : (s.finishRecord copy result).host = s.host := by simp [State.finishRecord]
@[simp] theorem finishRecord_freeCount (copy : RecordCopy) (result : WriteResult) : (s.finishRecord copy result).freeCount = s.freeCount := by simp [State.finishRecord]
@[simp] theorem finishRecord_schedule (copy : RecordCopy) (result : WriteResult) : (s.finishRecord copy result).schedule = s.schedule := by simp [State.finishRecord]
@[simp] theorem finishRecord_pending (copy : RecordCopy) (result : WriteResult) : (s.finishRecord copy result).pending = s.pending := by simp [State.finishRecord]

/-! `recordWritten` -/

@[simp] theorem recordWritten_powered (result : WriteResult) : (s.recordWritten result).powered = s.powered := by unfold State.recordWritten; repeat' split <;> simp
@[simp] theorem recordWritten_engine (result : WriteResult) : (s.recordWritten result).engine = s.engine := by unfold State.recordWritten; repeat' split <;> simp
@[simp] theorem recordWritten_clock (result : WriteResult) : (s.recordWritten result).clock = s.clock := by unfold State.recordWritten; repeat' split <;> simp
@[simp] theorem recordWritten_timer (result : WriteResult) : (s.recordWritten result).timer = s.timer := by unfold State.recordWritten; repeat' split <;> simp
@[simp] theorem recordWritten_options (result : WriteResult) : (s.recordWritten result).options = s.options := by unfold State.recordWritten; repeat' split <;> simp
@[simp] theorem recordWritten_elements (result : WriteResult) : (s.recordWritten result).elements = s.elements := by unfold State.recordWritten; repeat' split <;> simp
@[simp] theorem recordWritten_wear (result : WriteResult) : (s.recordWritten result).wear = s.wear := by unfold State.recordWritten; repeat' split <;> simp
@[simp] theorem recordWritten_routes (result : WriteResult) : (s.recordWritten result).routes = s.routes := by unfold State.recordWritten; repeat' split <;> simp
@[simp] theorem recordWritten_transports (result : WriteResult) : (s.recordWritten result).transports = s.transports := by unfold State.recordWritten; repeat' split <;> simp
@[simp] theorem recordWritten_snapshotTaken (result : WriteResult) : (s.recordWritten result).snapshotTaken = s.snapshotTaken := by unfold State.recordWritten; repeat' split <;> simp
@[simp] theorem recordWritten_line (result : WriteResult) : (s.recordWritten result).line = s.line := by unfold State.recordWritten; repeat' split <;> simp
@[simp] theorem recordWritten_hold (result : WriteResult) : (s.recordWritten result).hold = s.hold := by unfold State.recordWritten; repeat' split <;> simp
@[simp] theorem recordWritten_plan (result : WriteResult) : (s.recordWritten result).plan = s.plan := by unfold State.recordWritten; repeat' split <;> simp
@[simp] theorem recordWritten_host (result : WriteResult) : (s.recordWritten result).host = s.host := by unfold State.recordWritten; repeat' split <;> simp
@[simp] theorem recordWritten_freeCount (result : WriteResult) : (s.recordWritten result).freeCount = s.freeCount := by unfold State.recordWritten; repeat' split <;> simp
@[simp] theorem recordWritten_pending (result : WriteResult) : (s.recordWritten result).pending = s.pending := by unfold State.recordWritten; repeat' split <;> simp

/-! `offer` -/

@[simp] theorem offer_powered (r : LineRecord) : (s.offer r).powered = s.powered := by unfold State.offer; split <;> rfl
@[simp] theorem offer_engine (r : LineRecord) : (s.offer r).engine = s.engine := by unfold State.offer; split <;> rfl
@[simp] theorem offer_clock (r : LineRecord) : (s.offer r).clock = s.clock := by unfold State.offer; split <;> rfl
@[simp] theorem offer_timer (r : LineRecord) : (s.offer r).timer = s.timer := by unfold State.offer; split <;> rfl
@[simp] theorem offer_options (r : LineRecord) : (s.offer r).options = s.options := by unfold State.offer; split <;> rfl
@[simp] theorem offer_elements (r : LineRecord) : (s.offer r).elements = s.elements := by unfold State.offer; split <;> rfl
@[simp] theorem offer_routes (r : LineRecord) : (s.offer r).routes = s.routes := by unfold State.offer; split <;> rfl
@[simp] theorem offer_transports (r : LineRecord) : (s.offer r).transports = s.transports := by unfold State.offer; split <;> rfl
@[simp] theorem offer_snapshotTaken (r : LineRecord) : (s.offer r).snapshotTaken = s.snapshotTaken := by unfold State.offer; split <;> rfl
@[simp] theorem offer_hold (r : LineRecord) : (s.offer r).hold = s.hold := by unfold State.offer; split <;> rfl
@[simp] theorem offer_plan (r : LineRecord) : (s.offer r).plan = s.plan := by unfold State.offer; split <;> rfl
@[simp] theorem offer_ckpt (r : LineRecord) : (s.offer r).ckpt = s.ckpt := by unfold State.offer; split <;> rfl
@[simp] theorem offer_store (r : LineRecord) : (s.offer r).store = s.store := by unfold State.offer; split <;> rfl
@[simp] theorem offer_host (r : LineRecord) : (s.offer r).host = s.host := by unfold State.offer; split <;> rfl
@[simp] theorem offer_freeCount (r : LineRecord) : (s.offer r).freeCount = s.freeCount := by unfold State.offer; split <;> rfl
@[simp] theorem offer_schedule (r : LineRecord) : (s.offer r).schedule = s.schedule := by unfold State.offer; split <;> rfl
@[simp] theorem offer_pending (r : LineRecord) : (s.offer r).pending = s.pending := by unfold State.offer; split <;> rfl

/-! `takeAnswer` -/

@[simp] theorem takeAnswer_powered (tag t : Nat) (granted : Bool) : (s.takeAnswer tag t granted).powered = s.powered := by unfold State.takeAnswer; split <;> rfl
@[simp] theorem takeAnswer_engine (tag t : Nat) (granted : Bool) : (s.takeAnswer tag t granted).engine = s.engine := by unfold State.takeAnswer; split <;> rfl
@[simp] theorem takeAnswer_clock (tag t : Nat) (granted : Bool) : (s.takeAnswer tag t granted).clock = s.clock := by unfold State.takeAnswer; split <;> rfl
@[simp] theorem takeAnswer_timer (tag t : Nat) (granted : Bool) : (s.takeAnswer tag t granted).timer = s.timer := by unfold State.takeAnswer; split <;> rfl
@[simp] theorem takeAnswer_options (tag t : Nat) (granted : Bool) : (s.takeAnswer tag t granted).options = s.options := by unfold State.takeAnswer; split <;> rfl
@[simp] theorem takeAnswer_elements (tag t : Nat) (granted : Bool) : (s.takeAnswer tag t granted).elements = s.elements := by unfold State.takeAnswer; split <;> rfl
@[simp] theorem takeAnswer_wear (tag t : Nat) (granted : Bool) : (s.takeAnswer tag t granted).wear = s.wear := by unfold State.takeAnswer; split <;> rfl
@[simp] theorem takeAnswer_routes (tag t : Nat) (granted : Bool) : (s.takeAnswer tag t granted).routes = s.routes := by unfold State.takeAnswer; split <;> rfl
@[simp] theorem takeAnswer_transports (tag t : Nat) (granted : Bool) : (s.takeAnswer tag t granted).transports = s.transports := by unfold State.takeAnswer; split <;> rfl
@[simp] theorem takeAnswer_snapshotTaken (tag t : Nat) (granted : Bool) : (s.takeAnswer tag t granted).snapshotTaken = s.snapshotTaken := by unfold State.takeAnswer; split <;> rfl
@[simp] theorem takeAnswer_plan (tag t : Nat) (granted : Bool) : (s.takeAnswer tag t granted).plan = s.plan := by unfold State.takeAnswer; split <;> rfl
@[simp] theorem takeAnswer_ckpt (tag t : Nat) (granted : Bool) : (s.takeAnswer tag t granted).ckpt = s.ckpt := by unfold State.takeAnswer; split <;> rfl
@[simp] theorem takeAnswer_store (tag t : Nat) (granted : Bool) : (s.takeAnswer tag t granted).store = s.store := by unfold State.takeAnswer; split <;> rfl
@[simp] theorem takeAnswer_host (tag t : Nat) (granted : Bool) : (s.takeAnswer tag t granted).host = s.host := by unfold State.takeAnswer; split <;> rfl
@[simp] theorem takeAnswer_freeCount (tag t : Nat) (granted : Bool) : (s.takeAnswer tag t granted).freeCount = s.freeCount := by unfold State.takeAnswer; split <;> rfl
@[simp] theorem takeAnswer_schedule (tag t : Nat) (granted : Bool) : (s.takeAnswer tag t granted).schedule = s.schedule := by unfold State.takeAnswer; split <;> rfl
@[simp] theorem takeAnswer_pending (tag t : Nat) (granted : Bool) : (s.takeAnswer tag t granted).pending = s.pending := by unfold State.takeAnswer; split <;> rfl

/-! `discardStarting` -/

@[simp] theorem discardStarting_powered (r : Inbound) : (s.discardStarting r).powered = s.powered := by unfold State.discardStarting; (repeat' split) <;> rfl
@[simp] theorem discardStarting_engine (r : Inbound) : (s.discardStarting r).engine = s.engine := by unfold State.discardStarting; (repeat' split) <;> rfl
@[simp] theorem discardStarting_clock (r : Inbound) : (s.discardStarting r).clock = s.clock := by unfold State.discardStarting; (repeat' split) <;> rfl
@[simp] theorem discardStarting_timer (r : Inbound) : (s.discardStarting r).timer = s.timer := by unfold State.discardStarting; (repeat' split) <;> rfl
@[simp] theorem discardStarting_options (r : Inbound) : (s.discardStarting r).options = s.options := by unfold State.discardStarting; (repeat' split) <;> rfl
@[simp] theorem discardStarting_elements (r : Inbound) : (s.discardStarting r).elements = s.elements := by unfold State.discardStarting; (repeat' split) <;> rfl
@[simp] theorem discardStarting_routes (r : Inbound) : (s.discardStarting r).routes = s.routes := by unfold State.discardStarting; (repeat' split) <;> rfl
@[simp] theorem discardStarting_transports (r : Inbound) : (s.discardStarting r).transports = s.transports := by unfold State.discardStarting; (repeat' split) <;> rfl
@[simp] theorem discardStarting_snapshotTaken (r : Inbound) : (s.discardStarting r).snapshotTaken = s.snapshotTaken := by unfold State.discardStarting; (repeat' split) <;> rfl
@[simp] theorem discardStarting_hold (r : Inbound) : (s.discardStarting r).hold = s.hold := by unfold State.discardStarting; (repeat' split) <;> rfl
@[simp] theorem discardStarting_plan (r : Inbound) : (s.discardStarting r).plan = s.plan := by unfold State.discardStarting; (repeat' split) <;> rfl
@[simp] theorem discardStarting_ckpt (r : Inbound) : (s.discardStarting r).ckpt = s.ckpt := by unfold State.discardStarting; (repeat' split) <;> rfl
@[simp] theorem discardStarting_store (r : Inbound) : (s.discardStarting r).store = s.store := by unfold State.discardStarting; (repeat' split) <;> rfl
@[simp] theorem discardStarting_host (r : Inbound) : (s.discardStarting r).host = s.host := by unfold State.discardStarting; (repeat' split) <;> rfl
@[simp] theorem discardStarting_alerts (r : Inbound) : (s.discardStarting r).alerts = s.alerts := by unfold State.discardStarting; (repeat' split) <;> rfl
@[simp] theorem discardStarting_freeCount (r : Inbound) : (s.discardStarting r).freeCount = s.freeCount := by unfold State.discardStarting; (repeat' split) <;> rfl
@[simp] theorem discardStarting_schedule (r : Inbound) : (s.discardStarting r).schedule = s.schedule := by unfold State.discardStarting; (repeat' split) <;> rfl
@[simp] theorem discardStarting_pending (r : Inbound) : (s.discardStarting r).pending = s.pending := by unfold State.discardStarting; (repeat' split) <;> rfl

/-! `passOn` -/

@[simp] theorem passOn_powered (r : Inbound) : (s.passOn r).powered = s.powered := by unfold State.passOn; (repeat' split) <;> simp
@[simp] theorem passOn_engine (r : Inbound) : (s.passOn r).engine = s.engine := by unfold State.passOn; (repeat' split) <;> simp
@[simp] theorem passOn_clock (r : Inbound) : (s.passOn r).clock = s.clock := by unfold State.passOn; (repeat' split) <;> simp
@[simp] theorem passOn_timer (r : Inbound) : (s.passOn r).timer = s.timer := by unfold State.passOn; (repeat' split) <;> simp
@[simp] theorem passOn_options (r : Inbound) : (s.passOn r).options = s.options := by unfold State.passOn; (repeat' split) <;> simp
@[simp] theorem passOn_elements (r : Inbound) : (s.passOn r).elements = s.elements := by unfold State.passOn; (repeat' split) <;> simp
@[simp] theorem passOn_routes (r : Inbound) : (s.passOn r).routes = s.routes := by unfold State.passOn; (repeat' split) <;> simp
@[simp] theorem passOn_transports (r : Inbound) : (s.passOn r).transports = s.transports := by unfold State.passOn; (repeat' split) <;> simp
@[simp] theorem passOn_snapshotTaken (r : Inbound) : (s.passOn r).snapshotTaken = s.snapshotTaken := by unfold State.passOn; (repeat' split) <;> simp
@[simp] theorem passOn_plan (r : Inbound) : (s.passOn r).plan = s.plan := by unfold State.passOn; (repeat' split) <;> simp
@[simp] theorem passOn_ckpt (r : Inbound) : (s.passOn r).ckpt = s.ckpt := by unfold State.passOn; (repeat' split) <;> simp
@[simp] theorem passOn_store (r : Inbound) : (s.passOn r).store = s.store := by unfold State.passOn; (repeat' split) <;> simp
@[simp] theorem passOn_host (r : Inbound) : (s.passOn r).host = s.host := by unfold State.passOn; (repeat' split) <;> simp
@[simp] theorem passOn_freeCount (r : Inbound) : (s.passOn r).freeCount = s.freeCount := by unfold State.passOn; (repeat' split) <;> simp
@[simp] theorem passOn_schedule (r : Inbound) : (s.passOn r).schedule = s.schedule := by unfold State.passOn; (repeat' split) <;> simp
@[simp] theorem passOn_pending (r : Inbound) : (s.passOn r).pending = s.pending := by unfold State.passOn; (repeat' split) <;> simp

/-! `recordArrives` -/

@[simp] theorem recordArrives_powered (r : RawRecord) : (s.recordArrives r).powered = s.powered := by unfold State.recordArrives; split <;> simp
@[simp] theorem recordArrives_engine (r : RawRecord) : (s.recordArrives r).engine = s.engine := by unfold State.recordArrives; split <;> simp
@[simp] theorem recordArrives_clock (r : RawRecord) : (s.recordArrives r).clock = s.clock := by unfold State.recordArrives; split <;> simp
@[simp] theorem recordArrives_timer (r : RawRecord) : (s.recordArrives r).timer = s.timer := by unfold State.recordArrives; split <;> simp
@[simp] theorem recordArrives_options (r : RawRecord) : (s.recordArrives r).options = s.options := by unfold State.recordArrives; split <;> simp
@[simp] theorem recordArrives_elements (r : RawRecord) : (s.recordArrives r).elements = s.elements := by unfold State.recordArrives; split <;> simp
@[simp] theorem recordArrives_routes (r : RawRecord) : (s.recordArrives r).routes = s.routes := by unfold State.recordArrives; split <;> simp
@[simp] theorem recordArrives_transports (r : RawRecord) : (s.recordArrives r).transports = s.transports := by unfold State.recordArrives; split <;> simp
@[simp] theorem recordArrives_snapshotTaken (r : RawRecord) : (s.recordArrives r).snapshotTaken = s.snapshotTaken := by unfold State.recordArrives; split <;> simp
@[simp] theorem recordArrives_plan (r : RawRecord) : (s.recordArrives r).plan = s.plan := by unfold State.recordArrives; split <;> simp
@[simp] theorem recordArrives_ckpt (r : RawRecord) : (s.recordArrives r).ckpt = s.ckpt := by unfold State.recordArrives; split <;> simp
@[simp] theorem recordArrives_store (r : RawRecord) : (s.recordArrives r).store = s.store := by unfold State.recordArrives; split <;> simp
@[simp] theorem recordArrives_host (r : RawRecord) : (s.recordArrives r).host = s.host := by unfold State.recordArrives; split <;> simp
@[simp] theorem recordArrives_freeCount (r : RawRecord) : (s.recordArrives r).freeCount = s.freeCount := by unfold State.recordArrives; split <;> simp
@[simp] theorem recordArrives_schedule (r : RawRecord) : (s.recordArrives r).schedule = s.schedule := by unfold State.recordArrives; split <;> simp
@[simp] theorem recordArrives_pending (r : RawRecord) : (s.recordArrives r).pending = s.pending := by unfold State.recordArrives; split <;> simp

/-! `lineByte` -/

@[simp] theorem lineByte_powered (b : Byte) : (s.lineByte b).powered = s.powered := by unfold State.lineByte; simp only []; split <;> simp
@[simp] theorem lineByte_engine (b : Byte) : (s.lineByte b).engine = s.engine := by unfold State.lineByte; simp only []; split <;> simp
@[simp] theorem lineByte_clock (b : Byte) : (s.lineByte b).clock = s.clock := by unfold State.lineByte; simp only []; split <;> simp
@[simp] theorem lineByte_timer (b : Byte) : (s.lineByte b).timer = s.timer := by unfold State.lineByte; simp only []; split <;> simp
@[simp] theorem lineByte_options (b : Byte) : (s.lineByte b).options = s.options := by unfold State.lineByte; simp only []; split <;> simp
@[simp] theorem lineByte_elements (b : Byte) : (s.lineByte b).elements = s.elements := by unfold State.lineByte; simp only []; split <;> simp
@[simp] theorem lineByte_routes (b : Byte) : (s.lineByte b).routes = s.routes := by unfold State.lineByte; simp only []; split <;> simp
@[simp] theorem lineByte_transports (b : Byte) : (s.lineByte b).transports = s.transports := by unfold State.lineByte; simp only []; split <;> simp
@[simp] theorem lineByte_snapshotTaken (b : Byte) : (s.lineByte b).snapshotTaken = s.snapshotTaken := by unfold State.lineByte; simp only []; split <;> simp
@[simp] theorem lineByte_plan (b : Byte) : (s.lineByte b).plan = s.plan := by unfold State.lineByte; simp only []; split <;> simp
@[simp] theorem lineByte_ckpt (b : Byte) : (s.lineByte b).ckpt = s.ckpt := by unfold State.lineByte; simp only []; split <;> simp
@[simp] theorem lineByte_store (b : Byte) : (s.lineByte b).store = s.store := by unfold State.lineByte; simp only []; split <;> simp
@[simp] theorem lineByte_host (b : Byte) : (s.lineByte b).host = s.host := by unfold State.lineByte; simp only []; split <;> simp
@[simp] theorem lineByte_freeCount (b : Byte) : (s.lineByte b).freeCount = s.freeCount := by unfold State.lineByte; simp only []; split <;> simp
@[simp] theorem lineByte_schedule (b : Byte) : (s.lineByte b).schedule = s.schedule := by unfold State.lineByte; simp only []; split <;> simp
@[simp] theorem lineByte_pending (b : Byte) : (s.lineByte b).pending = s.pending := by unfold State.lineByte; simp only []; split <;> simp

/-! `lineGap` -/

@[simp] theorem lineGap_powered : (s.lineGap).powered = s.powered := by unfold State.lineGap; split <;> simp
@[simp] theorem lineGap_engine : (s.lineGap).engine = s.engine := by unfold State.lineGap; split <;> simp
@[simp] theorem lineGap_clock : (s.lineGap).clock = s.clock := by unfold State.lineGap; split <;> simp
@[simp] theorem lineGap_timer : (s.lineGap).timer = s.timer := by unfold State.lineGap; split <;> simp
@[simp] theorem lineGap_options : (s.lineGap).options = s.options := by unfold State.lineGap; split <;> simp
@[simp] theorem lineGap_elements : (s.lineGap).elements = s.elements := by unfold State.lineGap; split <;> simp
@[simp] theorem lineGap_wear : (s.lineGap).wear = s.wear := by unfold State.lineGap; split <;> simp
@[simp] theorem lineGap_routes : (s.lineGap).routes = s.routes := by unfold State.lineGap; split <;> simp
@[simp] theorem lineGap_transports : (s.lineGap).transports = s.transports := by unfold State.lineGap; split <;> simp
@[simp] theorem lineGap_snapshotTaken : (s.lineGap).snapshotTaken = s.snapshotTaken := by unfold State.lineGap; split <;> simp
@[simp] theorem lineGap_hold : (s.lineGap).hold = s.hold := by unfold State.lineGap; split <;> simp
@[simp] theorem lineGap_plan : (s.lineGap).plan = s.plan := by unfold State.lineGap; split <;> simp
@[simp] theorem lineGap_ckpt : (s.lineGap).ckpt = s.ckpt := by unfold State.lineGap; split <;> simp
@[simp] theorem lineGap_store : (s.lineGap).store = s.store := by unfold State.lineGap; split <;> simp
@[simp] theorem lineGap_host : (s.lineGap).host = s.host := by unfold State.lineGap; split <;> simp
@[simp] theorem lineGap_freeCount : (s.lineGap).freeCount = s.freeCount := by unfold State.lineGap; split <;> simp
@[simp] theorem lineGap_schedule : (s.lineGap).schedule = s.schedule := by unfold State.lineGap; split <;> simp
@[simp] theorem lineGap_pending : (s.lineGap).pending = s.pending := by unfold State.lineGap; split <;> simp

/-! `runCharge` -/

@[simp] theorem runCharge_powered (carried : Option Nat) (i : Nat) : (runCharge carried s i).powered = s.powered := by unfold runCharge; (repeat' split) <;> simp
@[simp] theorem runCharge_engine (carried : Option Nat) (i : Nat) : (runCharge carried s i).engine = s.engine := by unfold runCharge; (repeat' split) <;> simp
@[simp] theorem runCharge_clock (carried : Option Nat) (i : Nat) : (runCharge carried s i).clock = s.clock := by unfold runCharge; (repeat' split) <;> simp
@[simp] theorem runCharge_timer (carried : Option Nat) (i : Nat) : (runCharge carried s i).timer = s.timer := by unfold runCharge; (repeat' split) <;> simp
@[simp] theorem runCharge_options (carried : Option Nat) (i : Nat) : (runCharge carried s i).options = s.options := by unfold runCharge; (repeat' split) <;> simp
@[simp] theorem runCharge_routes (carried : Option Nat) (i : Nat) : (runCharge carried s i).routes = s.routes := by unfold runCharge; (repeat' split) <;> simp
@[simp] theorem runCharge_transports (carried : Option Nat) (i : Nat) : (runCharge carried s i).transports = s.transports := by unfold runCharge; (repeat' split) <;> simp
@[simp] theorem runCharge_snapshotTaken (carried : Option Nat) (i : Nat) : (runCharge carried s i).snapshotTaken = s.snapshotTaken := by unfold runCharge; (repeat' split) <;> simp
@[simp] theorem runCharge_line (carried : Option Nat) (i : Nat) : (runCharge carried s i).line = s.line := by unfold runCharge; (repeat' split) <;> simp
@[simp] theorem runCharge_ckpt (carried : Option Nat) (i : Nat) : (runCharge carried s i).ckpt = s.ckpt := by unfold runCharge; (repeat' split) <;> simp
@[simp] theorem runCharge_store (carried : Option Nat) (i : Nat) : (runCharge carried s i).store = s.store := by unfold runCharge; (repeat' split) <;> simp
@[simp] theorem runCharge_host (carried : Option Nat) (i : Nat) : (runCharge carried s i).host = s.host := by unfold runCharge; (repeat' split) <;> simp
@[simp] theorem runCharge_freeCount (carried : Option Nat) (i : Nat) : (runCharge carried s i).freeCount = s.freeCount := by unfold runCharge; (repeat' split) <;> simp
@[simp] theorem runCharge_schedule (carried : Option Nat) (i : Nat) : (runCharge carried s i).schedule = s.schedule := by unfold runCharge; (repeat' split) <;> simp
@[simp] theorem runCharge_pending (carried : Option Nat) (i : Nat) : (runCharge carried s i).pending = s.pending := by unfold runCharge; (repeat' split) <;> simp

/-! `jamCharge` -/

@[simp] theorem jamCharge_powered (t severity : Nat) (i : Nat) : (jamCharge t severity s i).powered = s.powered := by unfold jamCharge; (repeat' split) <;> simp
@[simp] theorem jamCharge_engine (t severity : Nat) (i : Nat) : (jamCharge t severity s i).engine = s.engine := by unfold jamCharge; (repeat' split) <;> simp
@[simp] theorem jamCharge_clock (t severity : Nat) (i : Nat) : (jamCharge t severity s i).clock = s.clock := by unfold jamCharge; (repeat' split) <;> simp
@[simp] theorem jamCharge_timer (t severity : Nat) (i : Nat) : (jamCharge t severity s i).timer = s.timer := by unfold jamCharge; (repeat' split) <;> simp
@[simp] theorem jamCharge_options (t severity : Nat) (i : Nat) : (jamCharge t severity s i).options = s.options := by unfold jamCharge; (repeat' split) <;> simp
@[simp] theorem jamCharge_routes (t severity : Nat) (i : Nat) : (jamCharge t severity s i).routes = s.routes := by unfold jamCharge; (repeat' split) <;> simp
@[simp] theorem jamCharge_transports (t severity : Nat) (i : Nat) : (jamCharge t severity s i).transports = s.transports := by unfold jamCharge; (repeat' split) <;> simp
@[simp] theorem jamCharge_snapshotTaken (t severity : Nat) (i : Nat) : (jamCharge t severity s i).snapshotTaken = s.snapshotTaken := by unfold jamCharge; (repeat' split) <;> simp
@[simp] theorem jamCharge_line (t severity : Nat) (i : Nat) : (jamCharge t severity s i).line = s.line := by unfold jamCharge; (repeat' split) <;> simp
@[simp] theorem jamCharge_ckpt (t severity : Nat) (i : Nat) : (jamCharge t severity s i).ckpt = s.ckpt := by unfold jamCharge; (repeat' split) <;> simp
@[simp] theorem jamCharge_store (t severity : Nat) (i : Nat) : (jamCharge t severity s i).store = s.store := by unfold jamCharge; (repeat' split) <;> simp
@[simp] theorem jamCharge_host (t severity : Nat) (i : Nat) : (jamCharge t severity s i).host = s.host := by unfold jamCharge; (repeat' split) <;> simp
@[simp] theorem jamCharge_freeCount (t severity : Nat) (i : Nat) : (jamCharge t severity s i).freeCount = s.freeCount := by unfold jamCharge; (repeat' split) <;> simp
@[simp] theorem jamCharge_schedule (t severity : Nat) (i : Nat) : (jamCharge t severity s i).schedule = s.schedule := by unfold jamCharge; (repeat' split) <;> simp
@[simp] theorem jamCharge_pending (t severity : Nat) (i : Nat) : (jamCharge t severity s i).pending = s.pending := by unfold jamCharge; (repeat' split) <;> simp

/-! `runOn` -/

@[simp] theorem runOn_powered (examined : Option Nat) : (s.runOn examined).powered = s.powered := by unfold State.runOn; split <;> first | exact foldl_keeps State.powered (fun _ _ => runCharge_powered _ _ _) _ _ | rfl
@[simp] theorem runOn_engine (examined : Option Nat) : (s.runOn examined).engine = s.engine := by unfold State.runOn; split <;> first | exact foldl_keeps State.engine (fun _ _ => runCharge_engine _ _ _) _ _ | rfl
@[simp] theorem runOn_clock (examined : Option Nat) : (s.runOn examined).clock = s.clock := by unfold State.runOn; split <;> first | exact foldl_keeps State.clock (fun _ _ => runCharge_clock _ _ _) _ _ | rfl
@[simp] theorem runOn_options (examined : Option Nat) : (s.runOn examined).options = s.options := by unfold State.runOn; split <;> first | exact foldl_keeps State.options (fun _ _ => runCharge_options _ _ _) _ _ | rfl
@[simp] theorem runOn_routes (examined : Option Nat) : (s.runOn examined).routes = s.routes := by unfold State.runOn; split <;> first | exact foldl_keeps State.routes (fun _ _ => runCharge_routes _ _ _) _ _ | rfl
@[simp] theorem runOn_transports (examined : Option Nat) : (s.runOn examined).transports = s.transports := by unfold State.runOn; split <;> first | exact foldl_keeps State.transports (fun _ _ => runCharge_transports _ _ _) _ _ | rfl
@[simp] theorem runOn_snapshotTaken (examined : Option Nat) : (s.runOn examined).snapshotTaken = s.snapshotTaken := by unfold State.runOn; split <;> first | exact foldl_keeps State.snapshotTaken (fun _ _ => runCharge_snapshotTaken _ _ _) _ _ | rfl
@[simp] theorem runOn_line (examined : Option Nat) : (s.runOn examined).line = s.line := by unfold State.runOn; split <;> first | exact foldl_keeps State.line (fun _ _ => runCharge_line _ _ _) _ _ | rfl
@[simp] theorem runOn_ckpt (examined : Option Nat) : (s.runOn examined).ckpt = s.ckpt := by unfold State.runOn; split <;> first | exact foldl_keeps State.ckpt (fun _ _ => runCharge_ckpt _ _ _) _ _ | rfl
@[simp] theorem runOn_store (examined : Option Nat) : (s.runOn examined).store = s.store := by unfold State.runOn; split <;> first | exact foldl_keeps State.store (fun _ _ => runCharge_store _ _ _) _ _ | rfl
@[simp] theorem runOn_host (examined : Option Nat) : (s.runOn examined).host = s.host := by unfold State.runOn; split <;> first | exact foldl_keeps State.host (fun _ _ => runCharge_host _ _ _) _ _ | rfl
@[simp] theorem runOn_freeCount (examined : Option Nat) : (s.runOn examined).freeCount = s.freeCount := by unfold State.runOn; split <;> first | exact foldl_keeps State.freeCount (fun _ _ => runCharge_freeCount _ _ _) _ _ | rfl
@[simp] theorem runOn_schedule (examined : Option Nat) : (s.runOn examined).schedule = s.schedule := by unfold State.runOn; split <;> first | exact foldl_keeps State.schedule (fun _ _ => runCharge_schedule _ _ _) _ _ | rfl
@[simp] theorem runOn_pending (examined : Option Nat) : (s.runOn examined).pending = s.pending := by unfold State.runOn; split <;> first | exact foldl_keeps State.pending (fun _ _ => runCharge_pending _ _ _) _ _ | rfl

/-! `jamWork` -/

@[simp] theorem jamWork_powered (acts : Option Nat) (t severity next : Nat) (charged : Bool) : (s.jamWork acts t severity next charged).powered = s.powered := by unfold State.jamWork; simp only []; split <;> exact foldl_keeps State.powered (fun _ _ => jamCharge_powered _ _ _ _) _ _
@[simp] theorem jamWork_engine (acts : Option Nat) (t severity next : Nat) (charged : Bool) : (s.jamWork acts t severity next charged).engine = s.engine := by unfold State.jamWork; simp only []; split <;> exact foldl_keeps State.engine (fun _ _ => jamCharge_engine _ _ _ _) _ _
@[simp] theorem jamWork_clock (acts : Option Nat) (t severity next : Nat) (charged : Bool) : (s.jamWork acts t severity next charged).clock = s.clock := by unfold State.jamWork; simp only []; split <;> exact foldl_keeps State.clock (fun _ _ => jamCharge_clock _ _ _ _) _ _
@[simp] theorem jamWork_options (acts : Option Nat) (t severity next : Nat) (charged : Bool) : (s.jamWork acts t severity next charged).options = s.options := by unfold State.jamWork; simp only []; split <;> exact foldl_keeps State.options (fun _ _ => jamCharge_options _ _ _ _) _ _
@[simp] theorem jamWork_routes (acts : Option Nat) (t severity next : Nat) (charged : Bool) : (s.jamWork acts t severity next charged).routes = s.routes := by unfold State.jamWork; simp only []; split <;> exact foldl_keeps State.routes (fun _ _ => jamCharge_routes _ _ _ _) _ _
@[simp] theorem jamWork_transports (acts : Option Nat) (t severity next : Nat) (charged : Bool) : (s.jamWork acts t severity next charged).transports = s.transports := by unfold State.jamWork; simp only []; split <;> exact foldl_keeps State.transports (fun _ _ => jamCharge_transports _ _ _ _) _ _
@[simp] theorem jamWork_snapshotTaken (acts : Option Nat) (t severity next : Nat) (charged : Bool) : (s.jamWork acts t severity next charged).snapshotTaken = s.snapshotTaken := by unfold State.jamWork; simp only []; split <;> exact foldl_keeps State.snapshotTaken (fun _ _ => jamCharge_snapshotTaken _ _ _ _) _ _
@[simp] theorem jamWork_line (acts : Option Nat) (t severity next : Nat) (charged : Bool) : (s.jamWork acts t severity next charged).line = s.line := by unfold State.jamWork; simp only []; split <;> exact foldl_keeps State.line (fun _ _ => jamCharge_line _ _ _ _) _ _
@[simp] theorem jamWork_ckpt (acts : Option Nat) (t severity next : Nat) (charged : Bool) : (s.jamWork acts t severity next charged).ckpt = s.ckpt := by unfold State.jamWork; simp only []; split <;> exact foldl_keeps State.ckpt (fun _ _ => jamCharge_ckpt _ _ _ _) _ _
@[simp] theorem jamWork_store (acts : Option Nat) (t severity next : Nat) (charged : Bool) : (s.jamWork acts t severity next charged).store = s.store := by unfold State.jamWork; simp only []; split <;> exact foldl_keeps State.store (fun _ _ => jamCharge_store _ _ _ _) _ _
@[simp] theorem jamWork_host (acts : Option Nat) (t severity next : Nat) (charged : Bool) : (s.jamWork acts t severity next charged).host = s.host := by unfold State.jamWork; simp only []; split <;> exact foldl_keeps State.host (fun _ _ => jamCharge_host _ _ _ _) _ _
@[simp] theorem jamWork_freeCount (acts : Option Nat) (t severity next : Nat) (charged : Bool) : (s.jamWork acts t severity next charged).freeCount = s.freeCount := by unfold State.jamWork; simp only []; split <;> exact foldl_keeps State.freeCount (fun _ _ => jamCharge_freeCount _ _ _ _) _ _
@[simp] theorem jamWork_schedule (acts : Option Nat) (t severity next : Nat) (charged : Bool) : (s.jamWork acts t severity next charged).schedule = s.schedule := by unfold State.jamWork; simp only []; split <;> exact foldl_keeps State.schedule (fun _ _ => jamCharge_schedule _ _ _ _) _ _
@[simp] theorem jamWork_pending (acts : Option Nat) (t severity next : Nat) (charged : Bool) : (s.jamWork acts t severity next charged).pending = s.pending := by unfold State.jamWork; simp only []; split <;> exact foldl_keeps State.pending (fun _ _ => jamCharge_pending _ _ _ _) _ _

/-! `chargePosition` -/

@[simp] theorem chargePosition_powered (it : Item) (ts : List Nat) (i : Nat) : ((chargePosition it (s, ts) i).1).powered = s.powered := by unfold chargePosition; simp only []; (repeat' split) <;> simp
@[simp] theorem chargePosition_engine (it : Item) (ts : List Nat) (i : Nat) : ((chargePosition it (s, ts) i).1).engine = s.engine := by unfold chargePosition; simp only []; (repeat' split) <;> simp
@[simp] theorem chargePosition_clock (it : Item) (ts : List Nat) (i : Nat) : ((chargePosition it (s, ts) i).1).clock = s.clock := by unfold chargePosition; simp only []; (repeat' split) <;> simp
@[simp] theorem chargePosition_timer (it : Item) (ts : List Nat) (i : Nat) : ((chargePosition it (s, ts) i).1).timer = s.timer := by unfold chargePosition; simp only []; (repeat' split) <;> simp
@[simp] theorem chargePosition_options (it : Item) (ts : List Nat) (i : Nat) : ((chargePosition it (s, ts) i).1).options = s.options := by unfold chargePosition; simp only []; (repeat' split) <;> simp
@[simp] theorem chargePosition_routes (it : Item) (ts : List Nat) (i : Nat) : ((chargePosition it (s, ts) i).1).routes = s.routes := by unfold chargePosition; simp only []; (repeat' split) <;> simp
@[simp] theorem chargePosition_transports (it : Item) (ts : List Nat) (i : Nat) : ((chargePosition it (s, ts) i).1).transports = s.transports := by unfold chargePosition; simp only []; (repeat' split) <;> simp
@[simp] theorem chargePosition_snapshotTaken (it : Item) (ts : List Nat) (i : Nat) : ((chargePosition it (s, ts) i).1).snapshotTaken = s.snapshotTaken := by unfold chargePosition; simp only []; (repeat' split) <;> simp
@[simp] theorem chargePosition_line (it : Item) (ts : List Nat) (i : Nat) : ((chargePosition it (s, ts) i).1).line = s.line := by unfold chargePosition; simp only []; (repeat' split) <;> simp
@[simp] theorem chargePosition_ckpt (it : Item) (ts : List Nat) (i : Nat) : ((chargePosition it (s, ts) i).1).ckpt = s.ckpt := by unfold chargePosition; simp only []; (repeat' split) <;> simp
@[simp] theorem chargePosition_store (it : Item) (ts : List Nat) (i : Nat) : ((chargePosition it (s, ts) i).1).store = s.store := by unfold chargePosition; simp only []; (repeat' split) <;> simp
@[simp] theorem chargePosition_host (it : Item) (ts : List Nat) (i : Nat) : ((chargePosition it (s, ts) i).1).host = s.host := by unfold chargePosition; simp only []; (repeat' split) <;> simp
@[simp] theorem chargePosition_freeCount (it : Item) (ts : List Nat) (i : Nat) : ((chargePosition it (s, ts) i).1).freeCount = s.freeCount := by unfold chargePosition; simp only []; (repeat' split) <;> simp
@[simp] theorem chargePosition_schedule (it : Item) (ts : List Nat) (i : Nat) : ((chargePosition it (s, ts) i).1).schedule = s.schedule := by unfold chargePosition; simp only []; (repeat' split) <;> simp
@[simp] theorem chargePosition_pending (it : Item) (ts : List Nat) (i : Nat) : ((chargePosition it (s, ts) i).1).pending = s.pending := by unfold chargePosition; simp only []; (repeat' split) <;> simp

/-! `handOffTransports` -/

@[simp] theorem handOffTransports_powered (ts : List Nat) : (s.handOffTransports ts).powered = s.powered := by unfold State.handOffTransports; exact foldl_keeps State.powered (fun _ _ => onTransport_powered _ _ _) _ _
@[simp] theorem handOffTransports_engine (ts : List Nat) : (s.handOffTransports ts).engine = s.engine := by unfold State.handOffTransports; exact foldl_keeps State.engine (fun _ _ => onTransport_engine _ _ _) _ _
@[simp] theorem handOffTransports_clock (ts : List Nat) : (s.handOffTransports ts).clock = s.clock := by unfold State.handOffTransports; exact foldl_keeps State.clock (fun _ _ => onTransport_clock _ _ _) _ _
@[simp] theorem handOffTransports_timer (ts : List Nat) : (s.handOffTransports ts).timer = s.timer := by unfold State.handOffTransports; exact foldl_keeps State.timer (fun _ _ => onTransport_timer _ _ _) _ _
@[simp] theorem handOffTransports_options (ts : List Nat) : (s.handOffTransports ts).options = s.options := by unfold State.handOffTransports; exact foldl_keeps State.options (fun _ _ => onTransport_options _ _ _) _ _
@[simp] theorem handOffTransports_elements (ts : List Nat) : (s.handOffTransports ts).elements = s.elements := by unfold State.handOffTransports; exact foldl_keeps State.elements (fun _ _ => onTransport_elements _ _ _) _ _
@[simp] theorem handOffTransports_wear (ts : List Nat) : (s.handOffTransports ts).wear = s.wear := by unfold State.handOffTransports; exact foldl_keeps State.wear (fun _ _ => onTransport_wear _ _ _) _ _
@[simp] theorem handOffTransports_routes (ts : List Nat) : (s.handOffTransports ts).routes = s.routes := by unfold State.handOffTransports; exact foldl_keeps State.routes (fun _ _ => onTransport_routes _ _ _) _ _
@[simp] theorem handOffTransports_snapshotTaken (ts : List Nat) : (s.handOffTransports ts).snapshotTaken = s.snapshotTaken := by unfold State.handOffTransports; exact foldl_keeps State.snapshotTaken (fun _ _ => onTransport_snapshotTaken _ _ _) _ _
@[simp] theorem handOffTransports_line (ts : List Nat) : (s.handOffTransports ts).line = s.line := by unfold State.handOffTransports; exact foldl_keeps State.line (fun _ _ => onTransport_line _ _ _) _ _
@[simp] theorem handOffTransports_hold (ts : List Nat) : (s.handOffTransports ts).hold = s.hold := by unfold State.handOffTransports; exact foldl_keeps State.hold (fun _ _ => onTransport_hold _ _ _) _ _
@[simp] theorem handOffTransports_plan (ts : List Nat) : (s.handOffTransports ts).plan = s.plan := by unfold State.handOffTransports; exact foldl_keeps State.plan (fun _ _ => onTransport_plan _ _ _) _ _
@[simp] theorem handOffTransports_ckpt (ts : List Nat) : (s.handOffTransports ts).ckpt = s.ckpt := by unfold State.handOffTransports; exact foldl_keeps State.ckpt (fun _ _ => onTransport_ckpt _ _ _) _ _
@[simp] theorem handOffTransports_store (ts : List Nat) : (s.handOffTransports ts).store = s.store := by unfold State.handOffTransports; exact foldl_keeps State.store (fun _ _ => onTransport_store _ _ _) _ _
@[simp] theorem handOffTransports_host (ts : List Nat) : (s.handOffTransports ts).host = s.host := by unfold State.handOffTransports; exact foldl_keeps State.host (fun _ _ => onTransport_host _ _ _) _ _
@[simp] theorem handOffTransports_alerts (ts : List Nat) : (s.handOffTransports ts).alerts = s.alerts := by unfold State.handOffTransports; exact foldl_keeps State.alerts (fun _ _ => onTransport_alerts _ _ _) _ _
@[simp] theorem handOffTransports_freeCount (ts : List Nat) : (s.handOffTransports ts).freeCount = s.freeCount := by unfold State.handOffTransports; exact foldl_keeps State.freeCount (fun _ _ => onTransport_freeCount _ _ _) _ _
@[simp] theorem handOffTransports_schedule (ts : List Nat) : (s.handOffTransports ts).schedule = s.schedule := by unfold State.handOffTransports; exact foldl_keeps State.schedule (fun _ _ => onTransport_schedule _ _ _) _ _
@[simp] theorem handOffTransports_pending (ts : List Nat) : (s.handOffTransports ts).pending = s.pending := by unfold State.handOffTransports; exact foldl_keeps State.pending (fun _ _ => onTransport_pending _ _ _) _ _

/-! `itemWork` -/

/-- What each position of a path keeps, the whole path keeps. -/
theorem positions_keep {γ : Type} (P : State → γ) {it : Item}
    (h : ∀ (u : State) (it : Item) (ts : List Nat) (i : Nat), P (chargePosition it (u, ts) i).1 = P u) (path : List Nat)
    (acc : State × List Nat) : P (path.foldl (chargePosition it) acc).1 = P acc.1 :=
  foldl_keeps (fun acc => P acc.1) (fun acc i => h acc.1 it acc.2 i) path acc

@[simp] theorem itemWork_powered (acts : Option Nat) (it : Item) (path ts : List Nat) : (s.itemWork acts it path ts).powered = s.powered := by unfold State.itemWork; simp only []; split <;> simp [positions_keep State.powered (fun _ _ _ _ => chargePosition_powered _ _ _ _)]
@[simp] theorem itemWork_engine (acts : Option Nat) (it : Item) (path ts : List Nat) : (s.itemWork acts it path ts).engine = s.engine := by unfold State.itemWork; simp only []; split <;> simp [positions_keep State.engine (fun _ _ _ _ => chargePosition_engine _ _ _ _)]
@[simp] theorem itemWork_clock (acts : Option Nat) (it : Item) (path ts : List Nat) : (s.itemWork acts it path ts).clock = s.clock := by unfold State.itemWork; simp only []; split <;> simp [positions_keep State.clock (fun _ _ _ _ => chargePosition_clock _ _ _ _)]
@[simp] theorem itemWork_options (acts : Option Nat) (it : Item) (path ts : List Nat) : (s.itemWork acts it path ts).options = s.options := by unfold State.itemWork; simp only []; split <;> simp [positions_keep State.options (fun _ _ _ _ => chargePosition_options _ _ _ _)]
@[simp] theorem itemWork_routes (acts : Option Nat) (it : Item) (path ts : List Nat) : (s.itemWork acts it path ts).routes = s.routes := by unfold State.itemWork; simp only []; split <;> simp [positions_keep State.routes (fun _ _ _ _ => chargePosition_routes _ _ _ _)]
@[simp] theorem itemWork_snapshotTaken (acts : Option Nat) (it : Item) (path ts : List Nat) : (s.itemWork acts it path ts).snapshotTaken = s.snapshotTaken := by unfold State.itemWork; simp only []; split <;> simp [positions_keep State.snapshotTaken (fun _ _ _ _ => chargePosition_snapshotTaken _ _ _ _)]
@[simp] theorem itemWork_line (acts : Option Nat) (it : Item) (path ts : List Nat) : (s.itemWork acts it path ts).line = s.line := by unfold State.itemWork; simp only []; split <;> simp [positions_keep State.line (fun _ _ _ _ => chargePosition_line _ _ _ _)]
@[simp] theorem itemWork_ckpt (acts : Option Nat) (it : Item) (path ts : List Nat) : (s.itemWork acts it path ts).ckpt = s.ckpt := by unfold State.itemWork; simp only []; split <;> simp [positions_keep State.ckpt (fun _ _ _ _ => chargePosition_ckpt _ _ _ _)]
@[simp] theorem itemWork_store (acts : Option Nat) (it : Item) (path ts : List Nat) : (s.itemWork acts it path ts).store = s.store := by unfold State.itemWork; simp only []; split <;> simp [positions_keep State.store (fun _ _ _ _ => chargePosition_store _ _ _ _)]
@[simp] theorem itemWork_host (acts : Option Nat) (it : Item) (path ts : List Nat) : (s.itemWork acts it path ts).host = s.host := by unfold State.itemWork; simp only []; split <;> simp [positions_keep State.host (fun _ _ _ _ => chargePosition_host _ _ _ _)]
@[simp] theorem itemWork_freeCount (acts : Option Nat) (it : Item) (path ts : List Nat) : (s.itemWork acts it path ts).freeCount = s.freeCount := by unfold State.itemWork; simp only []; split <;> simp [positions_keep State.freeCount (fun _ _ _ _ => chargePosition_freeCount _ _ _ _)]
@[simp] theorem itemWork_schedule (acts : Option Nat) (it : Item) (path ts : List Nat) : (s.itemWork acts it path ts).schedule = s.schedule := by unfold State.itemWork; simp only []; split <;> simp [positions_keep State.schedule (fun _ _ _ _ => chargePosition_schedule _ _ _ _)]
@[simp] theorem itemWork_pending (acts : Option Nat) (it : Item) (path ts : List Nat) : (s.itemWork acts it path ts).pending = s.pending := by unfold State.itemWork; simp only []; split <;> simp [positions_keep State.pending (fun _ _ _ _ => chargePosition_pending _ _ _ _)]

/-! `goOn` -/

@[simp] theorem goOn_powered (acts : Option Nat) : (s.goOn acts).powered = s.powered := by unfold State.goOn; split <;> simp
@[simp] theorem goOn_engine (acts : Option Nat) : (s.goOn acts).engine = s.engine := by unfold State.goOn; split <;> simp
@[simp] theorem goOn_clock (acts : Option Nat) : (s.goOn acts).clock = s.clock := by unfold State.goOn; split <;> simp
@[simp] theorem goOn_options (acts : Option Nat) : (s.goOn acts).options = s.options := by unfold State.goOn; split <;> simp
@[simp] theorem goOn_routes (acts : Option Nat) : (s.goOn acts).routes = s.routes := by unfold State.goOn; split <;> simp
@[simp] theorem goOn_snapshotTaken (acts : Option Nat) : (s.goOn acts).snapshotTaken = s.snapshotTaken := by unfold State.goOn; split <;> simp
@[simp] theorem goOn_line (acts : Option Nat) : (s.goOn acts).line = s.line := by unfold State.goOn; split <;> simp
@[simp] theorem goOn_ckpt (acts : Option Nat) : (s.goOn acts).ckpt = s.ckpt := by unfold State.goOn; split <;> simp
@[simp] theorem goOn_store (acts : Option Nat) : (s.goOn acts).store = s.store := by unfold State.goOn; split <;> simp
@[simp] theorem goOn_host (acts : Option Nat) : (s.goOn acts).host = s.host := by unfold State.goOn; split <;> simp
@[simp] theorem goOn_freeCount (acts : Option Nat) : (s.goOn acts).freeCount = s.freeCount := by unfold State.goOn; split <;> simp
@[simp] theorem goOn_schedule (acts : Option Nat) : (s.goOn acts).schedule = s.schedule := by unfold State.goOn; split <;> simp
@[simp] theorem goOn_pending (acts : Option Nat) : (s.goOn acts).pending = s.pending := by unfold State.goOn; split <;> simp

/-! `deliverRoll` -/

@[simp] theorem deliverRoll_powered (examined : Option Nat) : (s.deliverRoll examined).powered = s.powered := by unfold State.deliverRoll; simp only []; (repeat' split) <;> simp
@[simp] theorem deliverRoll_engine (examined : Option Nat) : (s.deliverRoll examined).engine = s.engine := by unfold State.deliverRoll; simp only []; (repeat' split) <;> simp
@[simp] theorem deliverRoll_clock (examined : Option Nat) : (s.deliverRoll examined).clock = s.clock := by unfold State.deliverRoll; simp only []; (repeat' split) <;> simp
@[simp] theorem deliverRoll_options (examined : Option Nat) : (s.deliverRoll examined).options = s.options := by unfold State.deliverRoll; simp only []; (repeat' split) <;> simp
@[simp] theorem deliverRoll_routes (examined : Option Nat) : (s.deliverRoll examined).routes = s.routes := by unfold State.deliverRoll; simp only []; (repeat' split) <;> simp
@[simp] theorem deliverRoll_transports (examined : Option Nat) : (s.deliverRoll examined).transports = s.transports := by unfold State.deliverRoll; simp only []; (repeat' split) <;> simp
@[simp] theorem deliverRoll_snapshotTaken (examined : Option Nat) : (s.deliverRoll examined).snapshotTaken = s.snapshotTaken := by unfold State.deliverRoll; simp only []; (repeat' split) <;> simp
@[simp] theorem deliverRoll_line (examined : Option Nat) : (s.deliverRoll examined).line = s.line := by unfold State.deliverRoll; simp only []; (repeat' split) <;> simp
@[simp] theorem deliverRoll_store (examined : Option Nat) : (s.deliverRoll examined).store = s.store := by unfold State.deliverRoll; simp only []; (repeat' split) <;> simp
@[simp] theorem deliverRoll_host (examined : Option Nat) : (s.deliverRoll examined).host = s.host := by unfold State.deliverRoll; simp only []; (repeat' split) <;> simp
@[simp] theorem deliverRoll_freeCount (examined : Option Nat) : (s.deliverRoll examined).freeCount = s.freeCount := by unfold State.deliverRoll; simp only []; (repeat' split) <;> simp
@[simp] theorem deliverRoll_schedule (examined : Option Nat) : (s.deliverRoll examined).schedule = s.schedule := by unfold State.deliverRoll; simp only []; (repeat' split) <;> simp
@[simp] theorem deliverRoll_pending (examined : Option Nat) : (s.deliverRoll examined).pending = s.pending := by unfold State.deliverRoll; simp only []; (repeat' split) <;> simp

/-! `finishBoundary` -/

@[simp] theorem finishBoundary_powered : (s.finishBoundary).powered = s.powered := by unfold State.finishBoundary; simp only []; (repeat' split) <;> simp
@[simp] theorem finishBoundary_engine : (s.finishBoundary).engine = s.engine := by unfold State.finishBoundary; simp only []; (repeat' split) <;> simp
@[simp] theorem finishBoundary_clock : (s.finishBoundary).clock = s.clock := by unfold State.finishBoundary; simp only []; (repeat' split) <;> simp
@[simp] theorem finishBoundary_options : (s.finishBoundary).options = s.options := by unfold State.finishBoundary; simp only []; (repeat' split) <;> simp
@[simp] theorem finishBoundary_routes : (s.finishBoundary).routes = s.routes := by unfold State.finishBoundary; simp only []; (repeat' split) <;> simp
@[simp] theorem finishBoundary_line : (s.finishBoundary).line = s.line := by unfold State.finishBoundary; simp only []; (repeat' split) <;> simp
@[simp] theorem finishBoundary_store : (s.finishBoundary).store = s.store := by unfold State.finishBoundary; simp only []; (repeat' split) <;> simp
@[simp] theorem finishBoundary_host : (s.finishBoundary).host = s.host := by unfold State.finishBoundary; simp only []; (repeat' split) <;> simp
@[simp] theorem finishBoundary_freeCount : (s.finishBoundary).freeCount = s.freeCount := by unfold State.finishBoundary; simp only []; (repeat' split) <;> simp
@[simp] theorem finishBoundary_schedule : (s.finishBoundary).schedule = s.schedule := by unfold State.finishBoundary; simp only []; (repeat' split) <;> simp
@[simp] theorem finishBoundary_pending : (s.finishBoundary).pending = s.pending := by unfold State.finishBoundary; simp only []; (repeat' split) <;> simp

/-! `finishTick` -/

@[simp] theorem finishTick_powered : (s.finishTick).powered = s.powered := by rw [State.finishTick]; simp
@[simp] theorem finishTick_engine : (s.finishTick).engine = s.engine := by rw [State.finishTick]; simp
@[simp] theorem finishTick_clock : (s.finishTick).clock = s.clock := by rw [State.finishTick]; simp
@[simp] theorem finishTick_options : (s.finishTick).options = s.options := by rw [State.finishTick]; simp
@[simp] theorem finishTick_routes : (s.finishTick).routes = s.routes := by rw [State.finishTick]; simp
@[simp] theorem finishTick_line : (s.finishTick).line = s.line := by rw [State.finishTick]; simp
@[simp] theorem finishTick_store : (s.finishTick).store = s.store := by rw [State.finishTick]; simp
@[simp] theorem finishTick_host : (s.finishTick).host = s.host := by rw [State.finishTick]; simp
@[simp] theorem finishTick_freeCount : (s.finishTick).freeCount = s.freeCount := by rw [State.finishTick]; simp
@[simp] theorem finishTick_schedule : (s.finishTick).schedule = s.schedule := by rw [State.finishTick]; simp
@[simp] theorem finishTick_pending : (s.finishTick).pending = s.pending := by rw [State.finishTick]; simp

/-! `takeMode` -/

@[simp] theorem takeMode_powered (m : LineMode) : (s.takeMode m).powered = s.powered := by unfold State.takeMode; simp only []; split <;> rfl
@[simp] theorem takeMode_engine (m : LineMode) : (s.takeMode m).engine = s.engine := by unfold State.takeMode; simp only []; split <;> rfl
@[simp] theorem takeMode_clock (m : LineMode) : (s.takeMode m).clock = s.clock := by unfold State.takeMode; simp only []; split <;> rfl
@[simp] theorem takeMode_timer (m : LineMode) : (s.takeMode m).timer = s.timer := by unfold State.takeMode; simp only []; split <;> rfl
@[simp] theorem takeMode_options (m : LineMode) : (s.takeMode m).options = s.options := by unfold State.takeMode; simp only []; split <;> rfl
@[simp] theorem takeMode_elements (m : LineMode) : (s.takeMode m).elements = s.elements := by unfold State.takeMode; simp only []; split <;> rfl
@[simp] theorem takeMode_routes (m : LineMode) : (s.takeMode m).routes = s.routes := by unfold State.takeMode; simp only []; split <;> rfl
@[simp] theorem takeMode_snapshotTaken (m : LineMode) : (s.takeMode m).snapshotTaken = s.snapshotTaken := by unfold State.takeMode; simp only []; split <;> rfl
@[simp] theorem takeMode_line (m : LineMode) : (s.takeMode m).line = s.line := by unfold State.takeMode; simp only []; split <;> rfl
@[simp] theorem takeMode_hold (m : LineMode) : (s.takeMode m).hold = s.hold := by unfold State.takeMode; simp only []; split <;> rfl
@[simp] theorem takeMode_plan (m : LineMode) : (s.takeMode m).plan = s.plan := by unfold State.takeMode; simp only []; split <;> rfl
@[simp] theorem takeMode_ckpt (m : LineMode) : (s.takeMode m).ckpt = s.ckpt := by unfold State.takeMode; simp only []; split <;> rfl
@[simp] theorem takeMode_store (m : LineMode) : (s.takeMode m).store = s.store := by unfold State.takeMode; simp only []; split <;> rfl
@[simp] theorem takeMode_host (m : LineMode) : (s.takeMode m).host = s.host := by unfold State.takeMode; simp only []; split <;> rfl
@[simp] theorem takeMode_alerts (m : LineMode) : (s.takeMode m).alerts = s.alerts := by unfold State.takeMode; simp only []; split <;> rfl
@[simp] theorem takeMode_freeCount (m : LineMode) : (s.takeMode m).freeCount = s.freeCount := by unfold State.takeMode; simp only []; split <;> rfl
@[simp] theorem takeMode_schedule (m : LineMode) : (s.takeMode m).schedule = s.schedule := by unfold State.takeMode; simp only []; split <;> rfl
@[simp] theorem takeMode_pending (m : LineMode) : (s.takeMode m).pending = s.pending := by unfold State.takeMode; simp only []; split <;> rfl

/-! `restoreHeader` -/

@[simp] theorem restoreHeader_powered (st : Store) : (s.restoreHeader st).powered = s.powered := by unfold State.restoreHeader; split <;> rfl
@[simp] theorem restoreHeader_engine (st : Store) : (s.restoreHeader st).engine = s.engine := by unfold State.restoreHeader; split <;> rfl
@[simp] theorem restoreHeader_clock (st : Store) : (s.restoreHeader st).clock = s.clock := by unfold State.restoreHeader; split <;> rfl
@[simp] theorem restoreHeader_timer (st : Store) : (s.restoreHeader st).timer = s.timer := by unfold State.restoreHeader; split <;> rfl
@[simp] theorem restoreHeader_elements (st : Store) : (s.restoreHeader st).elements = s.elements := by unfold State.restoreHeader; split <;> rfl
@[simp] theorem restoreHeader_wear (st : Store) : (s.restoreHeader st).wear = s.wear := by unfold State.restoreHeader; split <;> rfl
@[simp] theorem restoreHeader_transports (st : Store) : (s.restoreHeader st).transports = s.transports := by unfold State.restoreHeader; split <;> rfl
@[simp] theorem restoreHeader_snapshotTaken (st : Store) : (s.restoreHeader st).snapshotTaken = s.snapshotTaken := by unfold State.restoreHeader; split <;> rfl
@[simp] theorem restoreHeader_line (st : Store) : (s.restoreHeader st).line = s.line := by unfold State.restoreHeader; split <;> rfl
@[simp] theorem restoreHeader_hold (st : Store) : (s.restoreHeader st).hold = s.hold := by unfold State.restoreHeader; split <;> rfl
@[simp] theorem restoreHeader_plan (st : Store) : (s.restoreHeader st).plan = s.plan := by unfold State.restoreHeader; split <;> rfl
@[simp] theorem restoreHeader_store (st : Store) : (s.restoreHeader st).store = s.store := by unfold State.restoreHeader; split <;> rfl
@[simp] theorem restoreHeader_host (st : Store) : (s.restoreHeader st).host = s.host := by unfold State.restoreHeader; split <;> rfl
@[simp] theorem restoreHeader_freeCount (st : Store) : (s.restoreHeader st).freeCount = s.freeCount := by unfold State.restoreHeader; split <;> rfl
@[simp] theorem restoreHeader_schedule (st : Store) : (s.restoreHeader st).schedule = s.schedule := by unfold State.restoreHeader; split <;> rfl
@[simp] theorem restoreHeader_pending (st : Store) : (s.restoreHeader st).pending = s.pending := by unfold State.restoreHeader; split <;> rfl

/-! `busySent` -/

@[simp] theorem busySent_powered : (s.busySent).powered = s.powered := by unfold State.busySent; split <;> rfl
@[simp] theorem busySent_engine : (s.busySent).engine = s.engine := by unfold State.busySent; split <;> rfl
@[simp] theorem busySent_clock : (s.busySent).clock = s.clock := by unfold State.busySent; split <;> rfl
@[simp] theorem busySent_timer : (s.busySent).timer = s.timer := by unfold State.busySent; split <;> rfl
@[simp] theorem busySent_options : (s.busySent).options = s.options := by unfold State.busySent; split <;> rfl
@[simp] theorem busySent_elements : (s.busySent).elements = s.elements := by unfold State.busySent; split <;> rfl
@[simp] theorem busySent_wear : (s.busySent).wear = s.wear := by unfold State.busySent; split <;> rfl
@[simp] theorem busySent_routes : (s.busySent).routes = s.routes := by unfold State.busySent; split <;> rfl
@[simp] theorem busySent_transports : (s.busySent).transports = s.transports := by unfold State.busySent; split <;> rfl
@[simp] theorem busySent_snapshotTaken : (s.busySent).snapshotTaken = s.snapshotTaken := by unfold State.busySent; split <;> rfl
@[simp] theorem busySent_line : (s.busySent).line = s.line := by unfold State.busySent; split <;> rfl
@[simp] theorem busySent_hold : (s.busySent).hold = s.hold := by unfold State.busySent; split <;> rfl
@[simp] theorem busySent_plan : (s.busySent).plan = s.plan := by unfold State.busySent; split <;> rfl
@[simp] theorem busySent_ckpt : (s.busySent).ckpt = s.ckpt := by unfold State.busySent; split <;> rfl
@[simp] theorem busySent_store : (s.busySent).store = s.store := by unfold State.busySent; split <;> rfl
@[simp] theorem busySent_alerts : (s.busySent).alerts = s.alerts := by unfold State.busySent; split <;> rfl
@[simp] theorem busySent_freeCount : (s.busySent).freeCount = s.freeCount := by unfold State.busySent; split <;> rfl
@[simp] theorem busySent_schedule : (s.busySent).schedule = s.schedule := by unfold State.busySent; split <;> rfl
@[simp] theorem busySent_pending : (s.busySent).pending = s.pending := by unfold State.busySent; split <;> rfl

/-! `noticeSent` -/

@[simp] theorem noticeSent_powered : (s.noticeSent).powered = s.powered := by unfold State.noticeSent; split <;> rfl
@[simp] theorem noticeSent_engine : (s.noticeSent).engine = s.engine := by unfold State.noticeSent; split <;> rfl
@[simp] theorem noticeSent_clock : (s.noticeSent).clock = s.clock := by unfold State.noticeSent; split <;> rfl
@[simp] theorem noticeSent_timer : (s.noticeSent).timer = s.timer := by unfold State.noticeSent; split <;> rfl
@[simp] theorem noticeSent_options : (s.noticeSent).options = s.options := by unfold State.noticeSent; split <;> rfl
@[simp] theorem noticeSent_elements : (s.noticeSent).elements = s.elements := by unfold State.noticeSent; split <;> rfl
@[simp] theorem noticeSent_wear : (s.noticeSent).wear = s.wear := by unfold State.noticeSent; split <;> rfl
@[simp] theorem noticeSent_routes : (s.noticeSent).routes = s.routes := by unfold State.noticeSent; split <;> rfl
@[simp] theorem noticeSent_transports : (s.noticeSent).transports = s.transports := by unfold State.noticeSent; split <;> rfl
@[simp] theorem noticeSent_snapshotTaken : (s.noticeSent).snapshotTaken = s.snapshotTaken := by unfold State.noticeSent; split <;> rfl
@[simp] theorem noticeSent_line : (s.noticeSent).line = s.line := by unfold State.noticeSent; split <;> rfl
@[simp] theorem noticeSent_hold : (s.noticeSent).hold = s.hold := by unfold State.noticeSent; split <;> rfl
@[simp] theorem noticeSent_plan : (s.noticeSent).plan = s.plan := by unfold State.noticeSent; split <;> rfl
@[simp] theorem noticeSent_ckpt : (s.noticeSent).ckpt = s.ckpt := by unfold State.noticeSent; split <;> rfl
@[simp] theorem noticeSent_store : (s.noticeSent).store = s.store := by unfold State.noticeSent; split <;> rfl
@[simp] theorem noticeSent_alerts : (s.noticeSent).alerts = s.alerts := by unfold State.noticeSent; split <;> rfl
@[simp] theorem noticeSent_freeCount : (s.noticeSent).freeCount = s.freeCount := by unfold State.noticeSent; split <;> rfl
@[simp] theorem noticeSent_schedule : (s.noticeSent).schedule = s.schedule := by unfold State.noticeSent; split <;> rfl
@[simp] theorem noticeSent_pending : (s.noticeSent).pending = s.pending := by unfold State.noticeSent; split <;> rfl

end Sys2Proof.Machine
end

