-- ==== Sys2Proof/Laws/Checkpoints.lean ====
section
/-! SUPPORT. What the record under a checkpoint's cursor can do (R167, R168; notes/assumptions/4.md, 12.md). -/

namespace Sys2Proof.Machine

variable {s : State}

/-- A checkpoint runs unless progress is at rest (R166). -/
theorem isWriting_eq_false_iff {p : Progress} :
    p.isWriting = false ↔ p = .idle ∨ p = .done ∨ p = .failed := by
  cases p <;> simp [Progress.isWriting]

/-- A record that is due, with no event between its copy and its verification. -/
theorem recordWritten_due {place : Nat} (result : WriteResult) (h : s.ckpt.progress = .due place) (hc : s.cut = none) :
    s.recordWritten result = s.cutTaken.finishRecord (s.recordAt place) result := by
  rw [State.recordWritten, h]; simp only [hc]

/-- A record that is due, with events between: its copy is taken and its write begins. -/
theorem recordWritten_begins {place : Nat} (result : WriteResult) (h : s.ckpt.progress = .due place)
    (hc : s.cut ≠ none) :
    s.recordWritten result =
      { s.cutTaken with ckpt := { s.ckpt with progress := .writing (s.recordAt place) } } := by
  obtain ⟨n, hn⟩ := Option.ne_none_iff_exists'.1 hc
  rw [State.recordWritten, h]; simp only [hn]

/-- A record whose write has begun is written and verified. -/
theorem recordWritten_begun {copy : RecordCopy} (result : WriteResult) (h : s.ckpt.progress = .writing copy) :
    s.recordWritten result = s.finishRecord copy result := by
  rw [State.recordWritten, h]

/-- With no checkpoint running no record is written. -/
theorem recordWritten_atRest (result : WriteResult) (h : s.ckpt.progress.isWriting = false) :
    s.recordWritten result = s := by
  rw [State.recordWritten]; rcases isWriting_eq_false_iff.1 h with h | h | h <;> rw [h]

/-- A loss of power acts on the record under the cursor (R176). -/
theorem recordUnderCursor_due {place : Nat} (h : s.ckpt.progress = .due place) :
    s.recordUnderCursor = some (s.recordAt place) := by
  rw [State.recordUnderCursor, h]

theorem recordUnderCursor_writing {copy : RecordCopy} (h : s.ckpt.progress = .writing copy) :
    s.recordUnderCursor = some copy := by
  rw [State.recordUnderCursor, h]

end Sys2Proof.Machine
end

