-- ==== Sys2Proof/Laws/HostLink.lean ====
section
/-! SUPPORT. What the shared operations of the host link can do: acting on a powered part, answering a request in
hand, completing a frame, and the transmitter's choice. -/

namespace Sys2Proof.Machine

/-! ### Acting -/

theorem act_powered {s : State} (f : State → State) (h : s.powered = true) :
    s.act f = .next (f s).arbitrate := by simp [State.act, h]

theorem act_unpowered {s : State} (f : State → State) (h : s.powered = false) : s.act f = .next s := by
  simp [State.act, h]

/-! ### Answering -/

theorem replyCode_of_request {code : Byte} (h : code.msb = false) (h' : code ≠ 0x7F) :
    replyCode code = code ||| 0x80 := by
  rw [replyCode, if_neg]
  simpa [h] using h'

/-- The ready reply of the request in hand. -/
theorem ready_eq_withReply {code : Byte} (h : code.msb = false) (h' : code ≠ 0x7F) (a : Answer) :
    a.ready code = a.state.withReply code a.status a.payload a.after := by
  simp only [Answer.ready, Answer.reply, replyCode_of_request h h', State.withReply, State.setInHand]

/-- The row of a request that is in hand executes it. -/
theorem serveBy_inHand {s : State} {i : Instr} {code : Byte} (execute : Byte → State)
    (h : s.host.inHand = some ⟨code, .executing i⟩) : s.serveBy i execute = execute code := by
  simp [State.serveBy, h]

/-- A request in hand whose moment of reply has not come is as it was. -/
theorem await_inHand {s : State} {i : Instr} {code : Byte} (h : s.host.inHand = some ⟨code, .executing i⟩) :
    s.await i = s := by
  rw [State.await, serveBy_inHand _ h, State.setInHand, ← h]

/-- The row of a request that is in hand does the owning block's work and makes its reply ready. -/
theorem request_serving {s : State} {i : Instr} {code : Byte} {work : State → Answer} (h : s.serving i code) :
    s.request i work =
      .next ((work s).state.withReply code (work s).status (work s).payload (work s).after).arbitrate := by
  obtain ⟨hp, hin, hm, h7⟩ := h
  rw [State.request, act_powered _ hp, State.serve, serveBy_inHand _ hin]
  simp only [ready_eq_withReply hm h7]

/-- A request that its owning block accepts. -/
theorem request_accepts {s u : State} {i : Instr} {code : Byte} {work : State → Answer} {payload : List Byte}
    (h : s.serving i code) (hw : work s = accept u payload) :
    s.request i work = .next (u.withReply code .ok payload .nothing).arbitrate := by
  rw [request_serving h, hw]; rfl

/-- A request that its owning block turns away changes no block. -/
theorem request_refuses {s : State} {i : Instr} {code : Byte} {work : State → Answer} {status : Status}
    (h : s.serving i code) (hw : work s = refuse s status) :
    s.request i work = .next (s.withReply code status [] .nothing).arbitrate := by
  rw [request_serving h, hw]; rfl

/-! ### Frames -/

theorem complete_free {l : HostLink} (h : l.inHand = none) (engine : EngineState) (f : HostFrame) :
    l.complete engine f = { l with inHand := some (judge engine f) } := by
  simp [HostLink.complete, h]

theorem complete_holds {l : HostLink} (h : l.inHand ≠ none) (h' : l.held = none) (engine : EngineState)
    (f : HostFrame) : l.complete engine f = { l with held := some f } := by
  obtain ⟨x, hx⟩ := Option.ne_none_iff_exists'.1 h
  simp [HostLink.complete, hx, h']

theorem complete_busy {l : HostLink} (h : l.inHand ≠ none) (h' : l.held ≠ none) (engine : EngineState)
    (f : HostFrame) :
    l.complete engine f = if l.busy.length < 4 then { l with busy := l.busy ++ [f.body.headD 0] } else l := by
  obtain ⟨x, hx⟩ := Option.ne_none_iff_exists'.1 h
  obtain ⟨y, hy⟩ := Option.ne_none_iff_exists'.1 h'
  simp [HostLink.complete, hx, hy, busyLimit]

@[simp] theorem complete_rx (l : HostLink) (engine : EngineState) (f : HostFrame) :
    (l.complete engine f).rx = l.rx := by
  unfold HostLink.complete; split <;> (try split) <;> rfl

/-! ### The transmitter -/

theorem arbitrate_sending {s : State} (h : s.host.tx ≠ none) : s.arbitrate = s := by
  obtain ⟨x, hx⟩ := Option.ne_none_iff_exists'.1 h
  simp [State.arbitrate, hx]

theorem arbitrate_busy {s : State} {code : Byte} {rest : List Byte} (h : s.host.tx = none)
    (hb : s.host.busy = code :: rest) :
    s.arbitrate = { s with host := { s.host with busy := rest, tx := some (.busy code) } } := by
  simp [State.arbitrate, h, hb]

theorem arbitrate_reply {s : State} {code : Byte} {r : Reply} (h : s.host.tx = none) (hb : s.host.busy = [])
    (hr : s.host.inHand = some ⟨code, .ready r⟩) :
    s.arbitrate = { s with host := { s.host with inHand := some ⟨code, .sending r⟩, tx := some .reply } } := by
  simp [State.arbitrate, h, hb, hr]

theorem arbitrate_notice {s : State} (h : s.host.tx = none) (hb : s.host.busy = [])
    (hr : ∀ code r, s.host.inHand ≠ some ⟨code, .ready r⟩) :
    s.arbitrate =
      match s.alerts.firstMark with
      | some kind =>
          { s with
            host := { s.host with tx := some (s.noticeOf kind) }
            alerts := { s.alerts with marks := s.alerts.marks &&& ~~~(BitVec.twoPow 19 kind) } }
      | none => s := by
  rcases hin : s.host.inHand with _ | ⟨code, i | r | r⟩
  all_goals try exact absurd hin (hr _ _)
  all_goals
    simp only [State.arbitrate, h, hb, hin]
    split <;> simp_all

/-- The transmitter's choice changes the host link and the pending marks alone. -/
theorem arbitrate_frame (s : State) :
    s.arbitrate = { s with
      host := s.arbitrate.host
      alerts := { s.alerts with marks := s.arbitrate.alerts.marks } } := by
  unfold State.arbitrate; split <;> rfl

/-! ### What the transmitter and a reply leave as it is -/

variable (s : State)

@[simp] theorem arbitrate_powered : s.arbitrate.powered = s.powered := by rw [arbitrate_frame]
@[simp] theorem arbitrate_engine : s.arbitrate.engine = s.engine := by rw [arbitrate_frame]
@[simp] theorem arbitrate_clock : s.arbitrate.clock = s.clock := by rw [arbitrate_frame]
@[simp] theorem arbitrate_timer : s.arbitrate.timer = s.timer := by rw [arbitrate_frame]
@[simp] theorem arbitrate_options : s.arbitrate.options = s.options := by rw [arbitrate_frame]
@[simp] theorem arbitrate_elements : s.arbitrate.elements = s.elements := by rw [arbitrate_frame]
@[simp] theorem arbitrate_wear : s.arbitrate.wear = s.wear := by rw [arbitrate_frame]
@[simp] theorem arbitrate_routes : s.arbitrate.routes = s.routes := by rw [arbitrate_frame]
@[simp] theorem arbitrate_transports : s.arbitrate.transports = s.transports := by rw [arbitrate_frame]
@[simp] theorem arbitrate_snapshotTaken : s.arbitrate.snapshotTaken = s.snapshotTaken := by rw [arbitrate_frame]
@[simp] theorem arbitrate_line : s.arbitrate.line = s.line := by rw [arbitrate_frame]
@[simp] theorem arbitrate_hold : s.arbitrate.hold = s.hold := by rw [arbitrate_frame]
@[simp] theorem arbitrate_plan : s.arbitrate.plan = s.plan := by rw [arbitrate_frame]
@[simp] theorem arbitrate_ckpt : s.arbitrate.ckpt = s.ckpt := by rw [arbitrate_frame]
@[simp] theorem arbitrate_store : s.arbitrate.store = s.store := by rw [arbitrate_frame]
@[simp] theorem arbitrate_freeCount : s.arbitrate.freeCount = s.freeCount := by rw [arbitrate_frame]
@[simp] theorem arbitrate_pending : s.arbitrate.pending = s.pending := by rw [arbitrate_frame]
@[simp] theorem arbitrate_latched : s.arbitrate.alerts.latched = s.alerts.latched := by rw [arbitrate_frame]
@[simp] theorem arbitrate_mask : s.arbitrate.alerts.mask = s.alerts.mask := by rw [arbitrate_frame]
@[simp] theorem arbitrate_subjects : s.arbitrate.alerts.subjects = s.alerts.subjects := by rw [arbitrate_frame]

variable (code : Byte) (st : Status) (p : List Byte) (a : AfterReply)

@[simp] theorem withReply_powered : (s.withReply code st p a).powered = s.powered := rfl
@[simp] theorem withReply_engine : (s.withReply code st p a).engine = s.engine := rfl
@[simp] theorem withReply_clock : (s.withReply code st p a).clock = s.clock := rfl
@[simp] theorem withReply_timer : (s.withReply code st p a).timer = s.timer := rfl
@[simp] theorem withReply_options : (s.withReply code st p a).options = s.options := rfl
@[simp] theorem withReply_elements : (s.withReply code st p a).elements = s.elements := rfl
@[simp] theorem withReply_wear : (s.withReply code st p a).wear = s.wear := rfl
@[simp] theorem withReply_routes : (s.withReply code st p a).routes = s.routes := rfl
@[simp] theorem withReply_transports : (s.withReply code st p a).transports = s.transports := rfl
@[simp] theorem withReply_snapshotTaken : (s.withReply code st p a).snapshotTaken = s.snapshotTaken := rfl
@[simp] theorem withReply_line : (s.withReply code st p a).line = s.line := rfl
@[simp] theorem withReply_hold : (s.withReply code st p a).hold = s.hold := rfl
@[simp] theorem withReply_plan : (s.withReply code st p a).plan = s.plan := rfl
@[simp] theorem withReply_ckpt : (s.withReply code st p a).ckpt = s.ckpt := rfl
@[simp] theorem withReply_store : (s.withReply code st p a).store = s.store := rfl
@[simp] theorem withReply_freeCount : (s.withReply code st p a).freeCount = s.freeCount := rfl
@[simp] theorem withReply_pending : (s.withReply code st p a).pending = s.pending := rfl
@[simp] theorem withReply_alerts : (s.withReply code st p a).alerts = s.alerts := rfl

/-! ### Requests (R182, R183; notes/assumptions/2.md) -/

theorem whenLength_request {n : Nat} {p : List Byte} {i j : Instr} (h : whenLength n p i = .request j) : j = i := by
  unfold whenLength at h
  split at h <;> simp_all

/-- What a payload decodes to is a host request. -/
theorem decodeRequest_request {n : Nat} {p : List Byte} {i : Instr} (h : decodeRequest n p = .request i) :
    requestCommand i ≠ none := by
  unfold decodeRequest at h
  repeat' split at h
  all_goals first
    | (rw [whenLength_request h]; simp [requestCommand])
    | simp at h

/-- What a taken frame dispatches is a host request. -/
theorem judge_request {engine : EngineState} {f : HostFrame} {code : Byte} {i : Instr}
    (h : judge engine f = ⟨code, .executing i⟩) : requestCommand i ≠ none := by
  simp only [judge] at h
  repeat' split at h
  all_goals try (simp at h; done)
  rename_i heq
  obtain ⟨-, rfl⟩ : _ ∧ _ = i := by simpa using h
  exact decodeRequest_request heq

/-- The row of a request, however it is reached, is the same. -/
theorem execRequest_eq {i : Instr} (h : requestCommand i ≠ none) (s : State) : execRequest i s = exec i s := by
  cases i <;> first | rfl | exact absurd rfl h

/-- READ SAVE STATUS with no record between its copy and its verification is a request like any other (R172). -/
theorem execReadSaveStatus_ready {s : State} (h : s.ckpt.progress.midRecord = false) :
    execReadSaveStatus s = s.request .readSaveStatus fun s => accept s s.ckpt.bytes := by
  rw [execReadSaveStatus, State.request, State.act, State.act, h]
  rfl

/-- READ SAVE STATUS in hand waits while a record is between its copy and its verification (R172). -/
theorem execReadSaveStatus_waits {s : State} {code : Byte} (hp : s.powered = true)
    (hin : s.host.inHand = some ⟨code, .executing .readSaveStatus⟩) (h : s.ckpt.progress.midRecord = true) :
    execReadSaveStatus s = .next s.arbitrate := by
  rw [execReadSaveStatus, act_powered _ hp, h, if_pos rfl, await_inHand hin]

end Sys2Proof.Machine
end

