-- ==== Sys2Proof/Laws/Elements.lean ====
section
/-! SUPPORT. What the element table's operations can do: reading an element after an update, settling an evaluation
(R9, R10), handing it on, and a charge. -/

namespace Sys2Proof.Machine

/-! ### Reading an element -/

theorem element_eq (s : State) (i : Nat) : s.element i = tget s.elements i .vacant := rfl

/-- An element outside the table reads as VACANT. -/
theorem element_outside (s : State) {i : Nat} (h : 240 ≤ i) : s.element i = .vacant := tget_of_le _ _ h

theorem element_congr {s u : State} (h : u.elements = s.elements) (i : Nat) : u.element i = s.element i := by
  rw [State.element, State.element, h]

theorem fitting?_congr {s u : State} (h : u.elements = s.elements) (i : Nat) :
    u.fitting? i = s.fitting? i := by rw [State.fitting?, State.fitting?, element_congr h]

/-- The elements of a state whose table is another's with one place written. -/
theorem element_of_tset {s u : State} {i : Nat} {e : Element} (h : u.elements = tset s.elements i e) (j : Nat) :
    u.element j = if i = j ∧ i < 240 then e else s.element j := by
  rw [State.element, h, tget_tset]; rfl

theorem fitting?_eq_some {s : State} {i : Nat} {f : Fitting} :
    s.fitting? i = some f ↔ (s.element i).position = .assigned f := by
  unfold State.fitting? Element.fitting?
  split <;> simp_all

theorem fitting?_eq_none {s : State} {i : Nat} :
    s.fitting? i = none ↔ ∀ f, (s.element i).position ≠ .assigned f := by
  unfold State.fitting? Element.fitting?
  split <;> simp_all

theorem fitting?_lt {s : State} {i : Nat} {f : Fitting} (h : s.fitting? i = some f) : i < 240 := by
  by_contra hi
  rw [fitting?_eq_some, element_outside s (by omega)] at h
  cases h

/-- An assigned element's record is its generation and its fitting. -/
theorem element_of_fitting {s : State} {i : Nat} {f : Fitting} (h : s.fitting? i = some f) :
    s.element i = ⟨(s.element i).generation, .assigned f⟩ := by
  rw [fitting?_eq_some] at h
  rw [← h]

/-- The fittings of a state whose table is another's with one fitting written. -/
theorem fitting?_of_tset {s u : State} {i : Nat} {g : BitVec 16} {f : Fitting}
    (h : u.elements = tset s.elements i ⟨g, .assigned f⟩) (j : Nat) :
    u.fitting? j = if i = j ∧ i < 240 then some f else s.fitting? j := by
  rw [State.fitting?, element_of_tset h]
  split
  · rfl
  · rfl

/-! ### States -/

theorem stateOk_threshold {a : Account} (h : a.state = thresholdState a.accumulator a.settings.advisory
    a.settings.due a.settings.limit) : a.stateOk = true := by
  unfold Account.stateOk
  split
  · rename_i h'
    rw [h'] at h
    unfold thresholdState at h
    split at h <;> (try split at h) <;> (try split at h) <;> cases h
  all_goals simpa using h

theorem thresholdState_ne_breakIn (a advisory due limit : Nat) :
    thresholdState a advisory due limit ≠ .breakIn := by
  unfold thresholdState
  split <;> (try split) <;> (try split) <;> simp

/-! ### Settling -/

@[simp] theorem settle_account (f : Fitting) (moved always : Bool) (L : Nat) (clock : Option Nat) :
    (f.settle moved always L clock).fitting =
      { f with
        milestones := f.reportedFlags
        projection :=
          if moved || always || f.unreported ≠ [] then f.projected L clock else f.projection } := rfl

@[simp] theorem settle_moved (f : Fitting) (moved always : Bool) (L : Nat) (clock : Option Nat) :
    (f.settle moved always L clock).moved = moved := rfl

@[simp] theorem settle_levels (f : Fitting) (moved always : Bool) (L : Nat) (clock : Option Nat) :
    (f.settle moved always L clock).levels = f.unreported := rfl

/-- A projection reads the state, the thresholds, the accumulator and the history alone. -/
theorem projected_congr {f g : Fitting} (hs : g.state = f.state) (ht : g.settings.due = f.settings.due)
    (ha : g.accumulator = f.accumulator) (hh : g.history = f.history) (hi : g.intervals = f.intervals)
    (L : Nat) (clock : Option Nat) : g.projected L clock = f.projected L clock := by
  simp only [Fitting.projected, Fitting.minutesToDue, Fitting.rateSum, Fitting.rateIntervals, hs, ht, ha, hh, hi]
  rfl

/-! ### Charges -/

/-- What a charge and its evaluation leave of an account beside its state, milestones and projection. -/
theorem afterCharge_account (f : Fitting) (passage : Bool) :
    { f.afterCharge passage with state := f.state, breakInRemaining := f.breakInRemaining } = f := by
  unfold Fitting.afterCharge
  (repeat' split) <;> rfl

variable (f : Fitting) (passage : Bool) (c : Charge) (L : Nat) (clock : Option Nat)

@[simp] theorem afterCharge_settings : (f.afterCharge passage).settings = f.settings := by
  unfold Fitting.afterCharge; (repeat' split) <;> rfl

@[simp] theorem afterCharge_accumulator : (f.afterCharge passage).accumulator = f.accumulator := by
  unfold Fitting.afterCharge; (repeat' split) <;> rfl

@[simp] theorem afterCharge_passages : (f.afterCharge passage).passages = f.passages := by
  unfold Fitting.afterCharge; (repeat' split) <;> rfl

@[simp] theorem afterCharge_runMinutes : (f.afterCharge passage).runMinutes = f.runMinutes := by
  unfold Fitting.afterCharge; (repeat' split) <;> rfl

@[simp] theorem afterCharge_history : (f.afterCharge passage).history = f.history := by
  unfold Fitting.afterCharge; (repeat' split) <;> rfl

@[simp] theorem afterCharge_intervals : (f.afterCharge passage).intervals = f.intervals := by
  unfold Fitting.afterCharge; (repeat' split) <;> rfl

@[simp] theorem afterCharge_milestones : (f.afterCharge passage).milestones = f.milestones := by
  unfold Fitting.afterCharge; (repeat' split) <;> rfl

@[simp] theorem afterCharge_waived : (f.afterCharge passage).waived = f.waived := by
  unfold Fitting.afterCharge; (repeat' split) <;> rfl

@[simp] theorem afterCharge_intervalWear : (f.afterCharge passage).intervalWear = f.intervalWear := by
  unfold Fitting.afterCharge; (repeat' split) <;> rfl

@[simp] theorem afterCharge_projection : (f.afterCharge passage).projection = f.projection := by
  unfold Fitting.afterCharge; (repeat' split) <;> rfl

@[simp] theorem charge_settings : (f.charge c).settings = f.settings := by
  unfold Fitting.charge; (repeat' split) <;> rfl

@[simp] theorem charge_state : (f.charge c).state = f.state := by
  unfold Fitting.charge; (repeat' split) <;> rfl

@[simp] theorem charge_history : (f.charge c).history = f.history := by
  unfold Fitting.charge; (repeat' split) <;> rfl

@[simp] theorem charge_intervals : (f.charge c).intervals = f.intervals := by
  unfold Fitting.charge; (repeat' split) <;> rfl

@[simp] theorem charge_milestones : (f.charge c).milestones = f.milestones := by
  unfold Fitting.charge; (repeat' split) <;> rfl

@[simp] theorem charge_waived : (f.charge c).waived = f.waived := by
  unfold Fitting.charge; (repeat' split) <;> rfl

@[simp] theorem charge_projection : (f.charge c).projection = f.projection := by
  unfold Fitting.charge; (repeat' split) <;> rfl

@[simp] theorem charge_accumulator : (f.charge c).accumulator = min (f.accumulator + c.units) 4294967295 := by
  unfold Fitting.charge; (repeat' split) <;> rfl

@[simp] theorem charge_intervalWear : (f.charge c).intervalWear = min (f.intervalWear + c.units) 4294967295 := by
  unfold Fitting.charge; (repeat' split) <;> rfl

theorem charge_passages :
    (f.charge c).passages = if c.isItem then min (f.passages + 1) 4294967295 else f.passages := by
  unfold Fitting.charge Charge.isItem; (repeat' split) <;> first | rfl | simp_all

theorem charge_breakInRemaining :
    (f.charge c).breakInRemaining =
      if c.isItem && f.state == .breakIn then f.breakInRemaining - 1 else f.breakInRemaining := by
  unfold Fitting.charge Charge.isItem; (repeat' split) <;> simp_all

theorem charge_runMinutes :
    (f.charge c).runMinutes =
      if c.source = .run then min (f.runMinutes + 1) 4294967295 else f.runMinutes := by
  unfold Fitting.charge; (repeat' split) <;> first | rfl | simp_all

@[simp] theorem evaluate_settings : (f.evaluate passage L clock).fitting.settings = (f.afterCharge passage).settings := rfl

@[simp] theorem evaluate_state : (f.evaluate passage L clock).fitting.state = (f.afterCharge passage).state := rfl

@[simp] theorem evaluate_accumulator : (f.evaluate passage L clock).fitting.accumulator = (f.afterCharge passage).accumulator := rfl

@[simp] theorem evaluate_passages : (f.evaluate passage L clock).fitting.passages = (f.afterCharge passage).passages := rfl

@[simp] theorem evaluate_runMinutes : (f.evaluate passage L clock).fitting.runMinutes = (f.afterCharge passage).runMinutes := rfl

@[simp] theorem evaluate_history : (f.evaluate passage L clock).fitting.history = (f.afterCharge passage).history := rfl

@[simp] theorem evaluate_intervals : (f.evaluate passage L clock).fitting.intervals = (f.afterCharge passage).intervals := rfl

@[simp] theorem evaluate_waived : (f.evaluate passage L clock).fitting.waived = (f.afterCharge passage).waived := rfl

@[simp] theorem evaluate_intervalWear : (f.evaluate passage L clock).fitting.intervalWear = (f.afterCharge passage).intervalWear := rfl

@[simp] theorem evaluate_breakInRemaining : (f.evaluate passage L clock).fitting.breakInRemaining = (f.afterCharge passage).breakInRemaining := rfl

/-- One charge, whole: the element's record, the watch ring, and the hand-offs of its evaluation. -/
theorem applyCharge_eq (s : State) (i : Nat) (f : Fitting) (c : Charge) :
    s.applyCharge i f c =
      { s with wear := s.wear.watchCharge i ⟨c.watchSource, c.units, (f.charge c).accumulator⟩ }.handOff
        ⟨i, c.source, c.minute⟩ ((f.charge c).evaluate c.isItem s.options.intervalLength s.clock) := rfl

theorem applyCharge_elements (s : State) (i : Nat) (f : Fitting) (c : Charge) :
    (s.applyCharge i f c).elements =
      tset s.elements i
        ⟨(s.element i).generation, .assigned ((f.charge c).evaluate c.isItem s.options.intervalLength s.clock).fitting⟩ := rfl

/-- A charge re-evaluates its transport's hold only where the element entered LIMIT. -/
theorem applyCharge_hold (s : State) (i : Nat) (f : Fitting) (c : Charge)
    (h : ((f.charge c).evaluate c.isItem s.options.intervalLength s.clock).fitting.state ≠ .limit) :
    (s.applyCharge i f c).hold = s.hold := by
  rw [applyCharge_eq, State.handOff]
  refine if_neg fun h' => h ?_
  rw [Bool.and_eq_true, beq_iff_eq] at h'
  exact h'.2

theorem applyCharge_wear (s : State) (i : Nat) (f : Fitting) (c : Charge) :
    ∃ capture, (s.applyCharge i f c).wear =
      { s.wear.watchCharge i ⟨c.watchSource, c.units, (f.charge c).accumulator⟩ with capture := capture } :=
  ⟨_, rfl⟩

end Sys2Proof.Machine
end

