-- ==== Sys2Proof/Laws/Lawful.lean ====
section
/-! SUPPORT. The laws as checks over the tables, so that a given state's are decided by computation, and the fields
that each law depends on. -/

namespace Sys2Proof.Machine

/-! ### Elements -/

theorem elementsLawful_iff (s : State) :
    s.elementsLawful ↔
      ((tlist s.elements).all fun e =>
        match e.fitting? with
        | some f => f.settings.ok && f.toAccount.stateOk
        | none => true) = true := by
  rw [List.all_eq_true]
  constructor
  · intro h e he
    obtain ⟨i, hi, rfl⟩ := (mem_tlist .vacant).1 he
    cases hf : (tget s.elements i .vacant).fitting? with
    | none => rfl
    | some f => exact Bool.and_eq_true_iff.2 (h i f hf)
  · intro h i f hf
    have hi := fitting?_lt hf
    have := h _ (tget_mem_tlist s.elements .vacant hi)
    rw [show (tget s.elements i .vacant).fitting? = some f from hf] at this
    exact Bool.and_eq_true_iff.1 this

theorem elementsLawful_congr {s u : State} (h : u.elements = s.elements) (hs : s.elementsLawful) :
    u.elementsLawful := by
  intro i f hf
  exact hs i f (by rwa [← fitting?_congr h])

/-- An element of the table is replaced by one that is lawful. -/
theorem elementsLawful_of_tset {s u : State} {i : Nat} {e : Element} (h : u.elements = tset s.elements i e)
    (hs : s.elementsLawful) (he : ∀ f, e.fitting? = some f → f.lawful) : u.elementsLawful := by
  intro j f hf
  by_cases hj : i = j ∧ i < 240
  · refine he f ?_
    rw [State.fitting?, element_of_tset h, if_pos hj] at hf
    exact hf
  · refine hs j f ?_
    rw [State.fitting?, element_of_tset h, if_neg hj] at hf
    exact hf

/-- A map over the table that keeps lawful fittings lawful. -/
theorem elementsLawful_of_tmap {s u : State} {g : Element → Element} (h : u.elements = tmap g s.elements)
    (hg : ∀ e f, (g e).fitting? = some f → (∀ f, e.fitting? = some f → f.lawful) → f.lawful)
    (hs : s.elementsLawful) : u.elementsLawful := by
  intro j f hf
  have hj := fitting?_lt hf
  rw [State.fitting?, element_eq, h, tget_tmap g s.elements j .vacant .vacant hj] at hf
  exact hg _ f hf fun f' hf' => hs j f' hf'

/-! ### Transports -/

theorem fresh_transport_lawful : Transport.fresh.lawful := by
  simp [Transport.lawful, Transport.fresh]

theorem transportsLawful_iff (s : State) : s.transportsLawful ↔ ∀ r ∈ tlist s.transports, r.lawful := by
  constructor
  · intro h r hr
    obtain ⟨i, hi, rfl⟩ := (mem_tlist .fresh).1 hr
    exact h i
  · intro h t
    by_cases ht : t < 32
    · exact h _ (tget_mem_tlist s.transports .fresh ht)
    · rw [State.transport, tget_of_le _ _ (by omega)]
      exact fresh_transport_lawful

theorem transportsLawful_congr {s u : State} (h : u.transports = s.transports) (hs : s.transportsLawful) :
    u.transportsLawful := by
  intro t
  rw [State.transport, h]
  exact hs t

/-- A transport's record is replaced by a lawful one. -/
theorem transportsLawful_of_tset {s u : State} {t : Nat} {r : Transport}
    (h : u.transports = tset s.transports t r) (hs : s.transportsLawful) (hr : r.lawful) :
    u.transportsLawful := by
  intro j
  rw [State.transport, h, tget_tset]
  split
  · exact hr
  · exact hs j

/-- A map over the transports that keeps each lawful. -/
theorem transportsLawful_of_tmap {s u : State} {g : Transport → Transport}
    (h : u.transports = tmap g s.transports) (hg : ∀ r, r.lawful → (g r).lawful) (hs : s.transportsLawful) :
    u.transportsLawful := by
  rw [transportsLawful_iff, h, tlist_tmap]
  intro r hr
  obtain ⟨q, hq, rfl⟩ := List.mem_map.1 hr
  exact hg q ((transportsLawful_iff s).1 hs q hq)

/-! ### Holds -/

/-- The hold unit's laws with every quantifier bounded. -/
theorem hold_lawful_iff (h : HoldUnit) :
    h.lawful ↔
      h.waiting.Nodup ∧
      (∀ t ∈ h.waiting, t < 32) ∧ (∀ t < 32, t ∈ h.waiting ↔ h.state t = .waiting) ∧
      (∀ t < 32, h.state t = .asking ↔
        ∃ k < 4, ((h.slot k).state ≠ .free ∧ (h.slot k).transport = some t) ∧ (h.slot k).state.asks = true) ∧
      (∀ k < 4, (h.slot k).state ≠ .free →
        ∃ t < 32, (h.slot k).transport = some t ∧ ((h.slot k).state = .aborting → h.state t = .clear)) ∧
      (∀ j < 4, ∀ k < 4, ((h.slot j).state ≠ .free ∧ (h.slot k).state ≠ .free ∧
        (h.slot j).transport = (h.slot k).transport) → j = k) := by
  constructor
  · rintro ⟨h1, h2, h3, h4, h5, h6⟩
    refine ⟨h1, fun t ht => ((h2 t).1 ht).1, fun t ht => ?_, h3, fun k hk hf => ?_, ?_⟩
    · rw [h2 t]
      exact ⟨fun x => x.2, fun x => ⟨ht, x⟩⟩
    · obtain ⟨t, ht⟩ := Option.ne_none_iff_exists'.1 (h6 k hk hf)
      obtain ⟨ht', ha⟩ := h4 k hk t ⟨hf, ht⟩
      exact ⟨t, ht', ht, ha⟩
    · rintro j hj k hk ⟨hjf, hkf, he⟩
      obtain ⟨t, ht⟩ := Option.ne_none_iff_exists'.1 (h6 j hj hjf)
      exact h5 j hj k hk t ⟨hjf, ht⟩ ⟨hkf, by rw [← he, ht]⟩
  · rintro ⟨h1, h2, h3, h4, h5, h6⟩
    refine ⟨h1, fun t => ⟨fun ht => ⟨h2 t ht, (h3 t (h2 t ht)).1 ht⟩, fun ht => (h3 t ht.1).2 ht.2⟩, h4, ?_, ?_, ?_⟩
    · rintro k hk t ⟨hf, ht⟩
      obtain ⟨u, hu, hut, ha⟩ := h5 k hk hf
      rw [ht] at hut
      cases hut
      exact ⟨hu, ha⟩
    · rintro j hj k hk t ⟨hjf, hjt⟩ ⟨hkf, hkt⟩
      exact h6 j hj k hk ⟨hjf, hkf, by rw [hjt, hkt]⟩
    · intro k hk hf
      obtain ⟨t, -, ht, -⟩ := h5 k hk hf
      simp [ht]

/-! ### Plan -/

theorem loadsLawful_iff (p : PlanUnit) :
    p.loadsLawful ↔
      ((List.range 8).all fun k =>
        match p.window k with
        | some w =>
            w.used == costSum (p.inWindow k) &&
            w.pinnedLoad == costSum ((p.inWindow k).filter PlanEntry.pinned) && decide (w.used ≤ w.capacity)
        | none => true) = true := by
  rw [List.all_eq_true]
  constructor
  · intro h k _
    cases hw : p.window k with
    | none => rfl
    | some w =>
      obtain ⟨h1, h2, h3⟩ := h k w hw
      simp only [← h1, ← h2, h3, beq_self_eq_true, decide_true, Bool.and_self]
  · intro h k w hw
    have hk : k < 8 := by
      by_contra hk
      rw [PlanUnit.window, tget_of_le _ _ (by omega)] at hw
      cases hw
    have := h k (List.mem_range.2 hk)
    simp only [hw, Bool.and_eq_true, beq_iff_eq, decide_eq_true_eq] at this
    exact ⟨this.1.1, this.1.2, this.2⟩

/-- The plan's laws as one check. -/
theorem planLawful_iff (s : State) :
    s.planLawful ↔
      (s.plan.queue.length ≤ 64 ∧ (s.plan.queue.map PlanEntry.element).Nodup ∧
        (s.plan.queue.all fun e =>
          (match e.window with | some k => (s.plan.window k).isSome | none => true) &&
          (!e.pinned || e.window.isSome) && (!e.unplaced || e.window.isNone)) = true) ∧
      s.plan.loadsLawful ∧
      (s.plan.queue.all fun e =>
        match s.fitting? e.element with
        | some f => f.settings.cost == e.cost && (s.element e.element).generation == e.generation
        | none => false) = true := by
  have hq : s.plan.queueLawful ↔
      (s.plan.queue.length ≤ 64 ∧ (s.plan.queue.map PlanEntry.element).Nodup ∧
        (s.plan.queue.all fun e =>
          (match e.window with | some k => (s.plan.window k).isSome | none => true) &&
          (!e.pinned || e.window.isSome) && (!e.unplaced || e.window.isNone)) = true) := by
    simp only [PlanUnit.queueLawful, List.all_eq_true, Bool.and_eq_true]
    refine and_congr_right fun _ => and_congr_right fun _ => forall₂_congr fun e _ => ?_
    cases e.window <;> cases e.pinned <;> cases e.unplaced <;> simp [Option.isSome_iff_exists]
  have he : (∀ e ∈ s.plan.queue, ∃ f, s.fitting? e.element = some f ∧ f.settings.cost = e.cost ∧
        (s.element e.element).generation = e.generation) ↔
      (s.plan.queue.all fun e =>
        match s.fitting? e.element with
        | some f => f.settings.cost == e.cost && (s.element e.element).generation == e.generation
        | none => false) = true := by
    rw [List.all_eq_true]
    refine forall₂_congr fun e _ => ?_
    cases s.fitting? e.element <;> simp
  rw [State.planLawful, hq, he]

end Sys2Proof.Machine
end

