-- ==== Sys2Proof/Laws/Holds.lean ====
section
/-! SUPPORT. Each operation of the hold unit keeps its laws (R107, R110, R112) and the transmitter's: `h.sound`. -/

namespace Sys2Proof.Machine

/-! ### Reading what was written -/

@[simp] theorem state_setState (h : HoldUnit) (t j : Nat) (x : HoldState) :
    (h.setState t x).state j = if t = j ∧ t < 32 then x else h.state j := tget_tset _ _ _ _ _

@[simp] theorem state_setSlot (h : HoldUnit) (k j : Nat) (v : HoldSlot) : (h.setSlot k v).state j = h.state j := rfl

@[simp] theorem slot_setSlot (h : HoldUnit) (k j : Nat) (v : HoldSlot) :
    (h.setSlot k v).slot j = if k = j ∧ k < 4 then v else h.slot j := tget_tset _ _ _ _ _

@[simp] theorem slot_setState (h : HoldUnit) (t j : Nat) (x : HoldState) : (h.setState t x).slot j = h.slot j := rfl

theorem slot_outside (h : HoldUnit) {k : Nat} (hk : 4 ≤ k) : h.slot k = .fresh := tget_of_le _ _ hk

theorem setState_view (h : HoldUnit) (t : Nat) (x : HoldState) :
    (h.setState t x).state = fun j => if t = j ∧ t < 32 then x else h.state j :=
  funext fun j => state_setState h t j x

theorem setSlot_view (h : HoldUnit) (k : Nat) (v : HoldSlot) :
    (h.setSlot k v).slot = fun j => if k = j ∧ k < 4 then v else h.slot j :=
  funext fun j => slot_setSlot h k j v

/-! ### The laws over the waiting list and what each transport and slot reads as -/

structure HoldView (w : List Nat) (st : Nat → HoldState) (sl : Nat → HoldSlot) : Prop where
  nodup : w.Nodup
  waits : ∀ t, t ∈ w ↔ t < 32 ∧ st t = .waiting
  asks : ∀ t, t < 32 →
    (st t = .asking ↔
      ∃ k, k < 4 ∧ (sl k).state ≠ .free ∧ (sl k).transport = some t ∧ (sl k).state ≠ .aborting)
  small : ∀ k, k < 4 → ∀ t, (sl k).state ≠ .free → (sl k).transport = some t → t < 32
  aborts : ∀ k, k < 4 → ∀ t, (sl k).state = .aborting → (sl k).transport = some t → st t = .clear
  unique : ∀ j, j < 4 → ∀ k, k < 4 → ∀ t, (sl j).state ≠ .free → (sl j).transport = some t →
    (sl k).state ≠ .free → (sl k).transport = some t → j = k
  named : ∀ k, k < 4 → (sl k).state ≠ .free → (sl k).transport ≠ none

theorem asks_iff (st : SlotState) : st.asks = true ↔ st ≠ .free ∧ st ≠ .aborting := by
  cases st <;> simp [SlotState.asks]

theorem lawful_iff_view (h : HoldUnit) : h.lawful ↔ HoldView h.waiting h.state h.slot := by
  constructor
  · rintro ⟨h1, h2, h3, h4, h5, h6⟩
    simp only [HoldUnit.busyWith] at *
    refine ⟨h1, h2, fun t ht => (h3 t ht).trans ?_, fun k hk t a b => (h4 k hk t ⟨a, b⟩).1,
      fun k hk t a b => (h4 k hk t ⟨by rw [a]; simp, b⟩).2 a,
      fun j hj k hk t a b c d => h5 j hj k hk t ⟨a, b⟩ ⟨c, d⟩, h6⟩
    constructor
    · rintro ⟨k, hk, ⟨a, b⟩, c⟩
      exact ⟨k, hk, a, b, ((asks_iff _).1 c).2⟩
    · rintro ⟨k, hk, a, b, c⟩
      exact ⟨k, hk, ⟨a, b⟩, (asks_iff _).2 ⟨a, c⟩⟩
  · rintro ⟨h1, h2, h3, h4, h4', h5, h6⟩
    refine ⟨h1, h2, fun t ht => (h3 t ht).trans ?_,
      fun k hk t a => ⟨h4 k hk t a.1 a.2, fun b => h4' k hk t b a.2⟩,
      fun j hj k hk t a b => h5 j hj k hk t a.1 a.2 b.1 b.2, h6⟩
    simp only [HoldUnit.busyWith]
    constructor
    · rintro ⟨k, hk, a, b, c⟩
      exact ⟨k, hk, ⟨a, b⟩, (asks_iff _).2 ⟨a, c⟩⟩
    · rintro ⟨k, hk, ⟨a, b⟩, c⟩
      exact ⟨k, hk, a, b, ((asks_iff _).1 c).2⟩

section Views

variable {w rest : List Nat} {st : Nat → HoldState} {sl : Nat → HoldSlot} {t k : Nat}

/-- The head of the waiting list takes a free slot. -/
theorem HoldView.file (v : HoldView (t :: rest) st sl) (hk : k < 4) (hf : (sl k).state = .free)
    (o : SlotOutcome) (tm : Option Nat) :
    HoldView rest (fun j => if t = j ∧ t < 32 then .asking else st j)
      (fun j => if k = j ∧ k < 4 then ⟨.pending, some t, o, tm⟩ else sl j) := by
  obtain ⟨h1, h2, h3, h4, h5, h6, h7⟩ := v
  have ht := (h2 t).1 (by simp)
  refine ⟨?_, ?_, ?_, ?_, ?_, ?_, ?_⟩ <;> grind

/-- A transport joins the waiting list. -/
theorem HoldView.wait (v : HoldView w st sl) (ht : t < 32) (hs : st t ≠ .waiting) (hs' : st t ≠ .asking)
    (hn : ∀ k, k < 4 → (sl k).state = .aborting → (sl k).transport ≠ some t) :
    HoldView (w ++ [t]) (fun j => if t = j ∧ t < 32 then .waiting else st j) sl := by
  obtain ⟨h1, h2, h3, h4, h5, h6, h7⟩ := v
  refine ⟨?_, ?_, ?_, ?_, ?_, ?_, ?_⟩ <;> grind

/-- An ABORTING slot is reclaimed. -/
theorem HoldView.reclaim {x : SlotState} (v : HoldView w st sl) (hk : k < 4) (ha : (sl k).state = .aborting)
    (hs : (sl k).transport = some t) (hx : x = .pending ∨ x = .sent) (o : SlotOutcome) (tm : Option Nat) :
    HoldView w (fun j => if t = j ∧ t < 32 then .asking else st j)
      (fun j => if k = j ∧ k < 4 then ⟨x, some t, o, tm⟩ else sl j) := by
  obtain ⟨h1, h2, h3, h4, h5, h6, h7⟩ := v
  refine ⟨?_, ?_, ?_, ?_, ?_, ?_, ?_⟩ <;> grind

/-- A transport that neither waits nor asks takes a state in which it does neither. -/
theorem HoldView.set {x : HoldState} (v : HoldView w st sl) (hs : st t ≠ .waiting) (hs' : st t ≠ .asking)
    (hx : x ≠ .waiting) (hx' : x ≠ .asking)
    (hn : x = .clear ∨ ∀ k, k < 4 → (sl k).state = .aborting → (sl k).transport ≠ some t) :
    HoldView w (fun j => if t = j ∧ t < 32 then x else st j) sl := by
  obtain ⟨h1, h2, h3, h4, h5, h6, h7⟩ := v
  refine ⟨?_, ?_, ?_, ?_, ?_, ?_, ?_⟩ <;> grind

/-- A transport leaves the waiting list. -/
theorem HoldView.unwait (v : HoldView w st sl) (hs : st t = .waiting) :
    HoldView (w.erase t) (fun j => if t = j ∧ t < 32 then .clear else st j) sl := by
  obtain ⟨h1, h2, h3, h4, h5, h6, h7⟩ := v
  refine ⟨?_, ?_, ?_, ?_, ?_, ?_, ?_⟩ <;> grind [List.Nodup.erase, List.Nodup.mem_erase_iff]

/-- The request of a PENDING or SENT slot ends. -/
theorem HoldView.finish {x : HoldState} (v : HoldView w st sl) (hk : k < 4)
    (ha : (sl k).state = .pending ∨ (sl k).state = .sent) (hs : (sl k).transport = some t)
    (hx : x ≠ .waiting) (hx' : x ≠ .asking) (o : SlotOutcome) (tm : Option Nat) :
    HoldView w (fun j => if t = j ∧ t < 32 then x else st j)
      (fun j => if k = j ∧ k < 4 then ⟨.free, some t, o, tm⟩ else sl j) := by
  obtain ⟨h1, h2, h3, h4, h5, h6, h7⟩ := v
  refine ⟨?_, ?_, ?_, ?_, ?_, ?_, ?_⟩ <;> grind

/-- The request of a PENDING or SENT slot is aborted. -/
theorem HoldView.abort (v : HoldView w st sl) (hk : k < 4)
    (ha : (sl k).state = .pending ∨ (sl k).state = .sent) (hs : (sl k).transport = some t)
    (o : SlotOutcome) (tm : Option Nat) :
    HoldView w (fun j => if t = j ∧ t < 32 then .clear else st j)
      (fun j => if k = j ∧ k < 4 then ⟨.aborting, some t, o, tm⟩ else sl j) := by
  obtain ⟨h1, h2, h3, h4, h5, h6, h7⟩ := v
  refine ⟨?_, ?_, ?_, ?_, ?_, ?_, ?_⟩ <;> grind

/-- An ABORTING slot frees. -/
theorem HoldView.free (v : HoldView w st sl) (ha : (sl k).state = .aborting) (tr : Option Nat) (o : SlotOutcome)
    (tm : Option Nat) : HoldView w st (fun j => if k = j ∧ k < 4 then ⟨.free, tr, o, tm⟩ else sl j) := by
  obtain ⟨h1, h2, h3, h4, h5, h6, h7⟩ := v
  refine ⟨?_, ?_, ?_, ?_, ?_, ?_, ?_⟩ <;> grind

/-- A slot changes its outcome or timer, or goes from PENDING to SENT. -/
theorem HoldView.slot {x : HoldSlot} (v : HoldView w st sl)
    (ha : (x.state = (sl k).state) ∨ ((sl k).state = .pending ∧ x.state = .sent))
    (hs : x.transport = (sl k).transport) :
    HoldView w st (fun j => if k = j ∧ k < 4 then x else sl j) := by
  obtain ⟨h1, h2, h3, h4, h5, h6, h7⟩ := v
  refine ⟨?_, ?_, ?_, ?_, ?_, ?_, ?_⟩ <;> grind

/-- Countdowns change. -/
theorem HoldView.countdowns {st' : Nat → HoldState} (v : HoldView w st sl)
    (h : ∀ t, st' t = st t ∨ ∃ c c', st t = .deferred c ∧ st' t = .deferred c') : HoldView w st' sl := by
  obtain ⟨h1, h2, h3, h4, h5, h6, h7⟩ := v
  refine ⟨?_, ?_, ?_, ?_, ?_, ?_, ?_⟩ <;> grind

end Views

/-! ### Soundness of each operation -/

def HoldUnit.sound (h : HoldUnit) : Prop := h.lawful ∧ h.transmits

theorem sound_iff (h : HoldUnit) :
    h.sound ↔ HoldView h.waiting h.state h.slot ∧ (h.sending = true ↔ h.transmit ≠ []) := by
  rw [HoldUnit.sound, lawful_iff_view]
  rfl

section Sound

variable {h : HoldUnit} {t k : Nat}

theorem lowestFree_some (hk : h.lowestFree? = some k) : k < 4 ∧ (h.slot k).state = .free := by
  unfold HoldUnit.lowestFree? at hk
  have h1 := List.find?_some hk
  have h2 := List.mem_of_find?_eq_some hk
  simp only [beq_iff_eq, List.mem_range] at h1 h2
  exact ⟨h2, h1⟩

theorem slotNaming_some {l : List SlotState} (hk : h.slotNaming? t l = some k) :
    k < 4 ∧ (h.slot k).transport = some t ∧ (h.slot k).state ∈ l := by
  unfold HoldUnit.slotNaming? at hk
  have h1 := List.find?_some hk
  have h2 := List.mem_of_find?_eq_some hk
  simp at h1 h2
  exact ⟨h2, h1.1, h1.2⟩

theorem slotNaming_none {l : List SlotState} (hk : h.slotNaming? t l = none) :
    ∀ k, k < 4 → (h.slot k).state ∈ l → (h.slot k).transport ≠ some t := by
  unfold HoldUnit.slotNaming? at hk
  rw [List.find?_eq_none] at hk
  intro k h4 hm ht
  exact hk k (by simpa using h4) (by simp [ht, hm])

theorem arbiterStep_sound (v : h.sound) : h.arbiterStep.sound := by
  rw [sound_iff] at v ⊢
  unfold HoldUnit.arbiterStep
  split
  · rename_i t rest k hw hk
    obtain ⟨hk4, hf⟩ := lowestFree_some hk
    refine ⟨?_, by simp [HoldUnit.join]⟩
    have v1 := v.1
    rw [hw] at v1
    show HoldView rest (HoldUnit.state (HoldUnit.setState _ t .asking)) (HoldUnit.slot (HoldUnit.setSlot _ k _))
    rw [setState_view, setSlot_view]
    exact v1.file hk4 hf (h.slot k).outcome none
  · exact v

theorem arbiter_sound (v : h.sound) (on : Bool) : (h.arbiter on).sound := by
  unfold HoldUnit.arbiter
  split
  · exact arbiterStep_sound (arbiterStep_sound (arbiterStep_sound (arbiterStep_sound v)))
  · exact v

theorem join_sound (v : h.sound) (e : TxEntry) : (h.join e).sound := by
  rw [sound_iff] at v ⊢
  exact ⟨v.1, by simp [HoldUnit.join]⟩

theorem joinRelease_sound (v : h.sound) (t : Nat) : (h.joinRelease t).sound := by
  unfold HoldUnit.joinRelease
  split
  · exact v
  · exact join_sound v _

theorem without_sound (v : h.sound) {e : TxEntry} (hr : h.removal e = .removed) : (h.without e).sound := by
  rw [sound_iff] at v ⊢
  refine ⟨v.1, ?_⟩
  show h.sending = true ↔ h.transmit.erase e ≠ []
  have hv := v.2
  unfold HoldUnit.removal at hr
  rcases hx : h.transmit with _ | ⟨a, rest⟩
  · simp [hx] at hv
    simp [hv]
  · have hs : h.sending = true := by
      rw [hv, hx]
      simp
    simp only [hs, hx, List.head?_cons, Bool.true_and] at hr
    split at hr
    · cases hr
    · rename_i hne
      have : a ≠ e := by
        rintro rfl
        simp at hne
      simp [hs, this]

theorem setState_sound {x : HoldState} (v : h.sound) (hs : h.state t ≠ .waiting) (hs' : h.state t ≠ .asking)
    (hx : x ≠ .waiting) (hx' : x ≠ .asking)
    (hn : x = .clear ∨ ∀ k, k < 4 → (h.slot k).state = .aborting → (h.slot k).transport ≠ some t) :
    (h.setState t x).sound := by
  rw [sound_iff] at v ⊢
  refine ⟨?_, v.2⟩
  rw [setState_view]
  exact v.1.set hs hs' hx hx' hn

theorem joinWaiting_sound (v : h.sound) (ht : t < 32) (hc : h.state t = .clear)
    (hn : ∀ k, k < 4 → (h.slot k).state = .aborting → (h.slot k).transport ≠ some t) (on : Bool) :
    (h.joinWaiting on t).sound := by
  refine arbiter_sound ?_ on
  rw [sound_iff] at v ⊢
  refine ⟨?_, v.2⟩
  show HoldView (h.waiting ++ [t]) (HoldUnit.state (HoldUnit.setState _ t .waiting)) _
  rw [setState_view]
  exact v.1.wait ht (by rw [hc]; decide) (by rw [hc]; decide) hn

theorem wishAppears_sound (v : h.sound) (ht : t < 32) (hc : h.state t = .clear) (on : Bool) :
    (h.wishAppears on t).sound := by
  unfold HoldUnit.wishAppears
  split
  · rename_i k hk
    obtain ⟨h4, htr, hst⟩ := slotNaming_some hk
    simp only [List.mem_singleton] at hst
    rw [sound_iff] at v ⊢
    refine ⟨?_, v.2⟩
    rw [setState_view]
    show HoldView h.waiting _ (HoldUnit.slot (HoldUnit.setSlot h k _))
    rw [setSlot_view]
    simp only [htr]
    exact v.1.reclaim h4 hst htr (by split <;> simp) (h.slot k).outcome (h.slot k).timer
  · rename_i hk
    have hn := slotNaming_none hk
    simp only [List.mem_singleton] at hn
    split
    · rename_i hr
      refine setState_sound (without_sound v hr) ?_ ?_ (by decide) (by decide) (Or.inr hn)
      · show h.state t ≠ _
        rw [hc]
        decide
      · show h.state t ≠ _
        rw [hc]
        decide
    · exact joinWaiting_sound v ht hc hn on
    · exact joinWaiting_sound v ht hc hn on

/-- A PENDING or SENT slot frees, and its transport takes a state in which it neither waits nor asks. -/
theorem freeSlot_sound {x : HoldState} (v : h.sound) (hk : k < 4)
    (ha : (h.slot k).state = .pending ∨ (h.slot k).state = .sent) (hs : (h.slot k).transport = some t)
    (hx : x ≠ .waiting) (hx' : x ≠ .asking) (o : SlotOutcome) : ((h.freeSlot k o).setState t x).sound := by
  rw [sound_iff] at v ⊢
  refine ⟨?_, v.2⟩
  rw [setState_view]
  show HoldView h.waiting _ (HoldUnit.slot (HoldUnit.setSlot h k _))
  rw [setSlot_view]
  simp only [hs]
  exact v.1.finish hk ha hs hx hx' o none

theorem freeAborting_sound (v : h.sound) (ha : (h.slot k).state = .aborting) (o : SlotOutcome) :
    (h.freeSlot k o).sound := by
  rw [sound_iff] at v ⊢
  refine ⟨?_, v.2⟩
  show HoldView h.waiting _ (HoldUnit.slot (HoldUnit.setSlot h k _))
  rw [setSlot_view]
  exact v.1.free ha _ _ _

theorem giveUp_sound (v : h.sound) (hk : k < 4) (ha : (h.slot k).state = .pending ∨ (h.slot k).state = .sent)
    (hs : (h.slot k).transport = some t) (on : Bool) (o : SlotOutcome) : (h.giveUp on k t o).sound := by
  have hab : ∀ tm, ((h.setSlot k { h.slot k with state := .aborting, timer := tm }).setState t .clear).sound := by
    intro tm
    rw [sound_iff] at v ⊢
    refine ⟨?_, v.2⟩
    rw [setState_view]
    show HoldView h.waiting _ (HoldUnit.slot (HoldUnit.setSlot h k _))
    rw [setSlot_view]
    simp only [hs]
    exact v.1.abort hk ha hs (h.slot k).outcome tm
  unfold HoldUnit.giveUp
  rcases ha with ha | ha <;> rw [ha] <;> simp only
  · refine arbiter_sound ?_ on
    unfold HoldUnit.withdraw
    split
    · rename_i hr
      exact freeSlot_sound (without_sound v hr) hk (Or.inl ha) hs (by decide) (by decide) o
    · exact hab none
    · exact hab none
  · exact hab _

theorem wishDisappears_sound (v : h.sound) (ht : t < 32) (on : Bool) : (h.wishDisappears on t).sound := by
  unfold HoldUnit.wishDisappears
  split
  · exact v
  · rename_i hw
    rw [sound_iff] at v ⊢
    refine ⟨?_, v.2⟩
    rw [setState_view]
    exact v.1.unwait hw
  · rename_i ha
    split
    · rename_i k hk
      obtain ⟨h4, htr, hst⟩ := slotNaming_some hk
      simp only [List.mem_cons, List.not_mem_nil, or_false] at hst
      exact giveUp_sound v h4 hst htr on _
    · rename_i hk
      exfalso
      have hn := slotNaming_none hk
      have := ((sound_iff h).1 v).1.asks t ht
      rw [ha] at this
      obtain ⟨k, hk, h1, h2, h3⟩ := this.1 rfl
      refine hn k hk ?_ h2
      cases hh : (h.slot k).state <;> simp_all
  · rename_i ha
    refine joinRelease_sound (setState_sound v ?_ ?_ (by decide) (by decide) (Or.inl rfl)) t <;> rw [ha] <;> decide
  · rename_i ha
    refine setState_sound v ?_ ?_ (by decide) (by decide) (Or.inl rfl) <;> rw [ha] <;> simp

theorem reevaluate_sound (v : h.sound) (ht : t < 32) (on wish : Bool) : (h.reevaluate on wish t).sound := by
  unfold HoldUnit.reevaluate
  split
  · split
    · rename_i hc
      exact wishAppears_sound v ht hc on
    all_goals exact v
  · exact wishDisappears_sound v ht on

theorem requestSent_sound (v : h.sound) (timeout k : Nat) : (h.requestSent timeout k).sound := by
  have key : ∀ x : HoldSlot,
      (x.state = (h.slot k).state ∨ ((h.slot k).state = .pending ∧ x.state = .sent)) →
      x.transport = (h.slot k).transport → (h.setSlot k x).sound := by
    intro x h1 h2
    rw [sound_iff] at v ⊢
    refine ⟨?_, v.2⟩
    rw [setSlot_view]
    exact v.1.slot h1 h2
  unfold HoldUnit.requestSent
  split
  · rename_i hp
    exact key _ (Or.inr ⟨hp, rfl⟩) rfl
  · split
    · exact key _ (Or.inl rfl) rfl
    · exact v
  · exact v
  · exact v

theorem headSent_sound (v : h.sound) (timeout : Nat) : (h.headSent timeout).sound := by
  have hl : ∀ rest, ({ h with transmit := rest, sending := !rest.isEmpty } : HoldUnit).sound := by
    intro rest
    rw [sound_iff] at v ⊢
    exact ⟨v.1, by cases rest <;> simp⟩
  unfold HoldUnit.headSent
  split
  · exact requestSent_sound (hl _) _ _
  · exact hl _
  · exact v

theorem answer_sound {u : HoldUnit} {on granted : Bool} {deferral tag : Nat} {es : List AlertEvent} (v : h.sound)
    (hu : h.answer on deferral tag t granted = some (u, es)) : u.sound := by
  unfold HoldUnit.answer at hu
  split at hu
  · rename_i hc
    simp only [Bool.and_eq_true, beq_iff_eq] at hc
    have h4 : tag < 4 := by
      by_contra h'
      rw [slot_outside h (by omega)] at hc
      simp [HoldSlot.fresh] at hc
    split at hu
    · rename_i hs
      cases hu
      exact arbiter_sound (freeSlot_sound v h4 (Or.inr hs) hc.2 (by decide) (by decide) _) on
    · rename_i hs
      cases hu
      exact arbiter_sound (freeSlot_sound v h4 (Or.inr hs) hc.2 (by simp) (by simp) _) on
    · rename_i hs
      cases hu
      exact arbiter_sound (joinRelease_sound (freeAborting_sound v hs _) _) on
    · rename_i hs
      cases hu
      exact arbiter_sound (freeAborting_sound v hs _) on
    · cases hu
    · cases hu
  · cases hu

theorem expire_sound (v : h.sound) (on : Bool) (deferral k : Nat) : (h.expire on deferral k).1.sound := by
  unfold HoldUnit.expire
  split
  · rename_i m t ht hs htr
    have h4 : k < 4 := by
      by_contra h'
      rw [slot_outside h (by omega)] at ht
      simp [HoldSlot.fresh] at ht
    exact arbiter_sound (freeSlot_sound v h4 (Or.inr hs) htr (by simp) (by simp) _) on
  · rename_i ht hs
    exact arbiter_sound (freeAborting_sound v hs _) on
  · exact v

theorem endDeferral_sound (v : h.sound) (wish : Nat → Bool) (ht : t < 32) : (h.endDeferral wish t).sound := by
  unfold HoldUnit.endDeferral
  split
  · rename_i hs
    have hv := (sound_iff h).1 v
    have h1 : h.state t ≠ .waiting := by
      rw [hs]
      simp
    have h2 : h.state t ≠ .asking := by
      rw [hs]
      simp
    have hn : ∀ k, k < 4 → (h.slot k).state = .aborting → (h.slot k).transport ≠ some t := by
      intro k hk ha htr
      have := hv.1.aborts k hk t ha htr
      rw [hs] at this
      cases this
    split
    · rw [sound_iff]
      refine ⟨?_, hv.2⟩
      rw [setState_view]
      exact hv.1.wait ht h1 h2 hn
    · exact setState_sound v h1 h2 (by decide) (by decide) (Or.inl rfl)
  · exact v

theorem countDown_state (h : HoldUnit) (t : Nat) :
    h.countDown.state t = match h.state t with | .deferred c => .deferred (c - 1) | st => st :=
  tget_tmap_default _ _ _ _ rfl

theorem countDown_sound (v : h.sound) : h.countDown.sound := by
  have hv := (sound_iff h).1 v
  rw [sound_iff]
  refine ⟨hv.1.countdowns fun t => ?_, hv.2⟩
  rw [countDown_state]
  cases h.state t <;> simp

theorem tick_sound (v : h.sound) (on : Bool) (wish : Nat → Bool) : (h.tick on wish).sound := by
  refine arbiter_sound ?_ on
  have key : ∀ (l : List Nat) (h : HoldUnit), h.sound → (∀ t ∈ l, t < 32) →
      (l.foldl (HoldUnit.endDeferral wish) h).sound := by
    intro l
    induction l with
    | nil => exact fun h v _ => v
    | cons t l ih =>
      exact fun h v hl => ih _ (endDeferral_sound v wish (hl t (by simp))) fun x hx => hl x (by simp [hx])
  exact key _ _ (countDown_sound v) (by simp)

theorem fresh_sound : HoldUnit.fresh.sound :=
  ⟨(hold_lawful_iff _).2
    ⟨by decide +kernel, by decide +kernel, by decide +kernel, by decide +kernel, by decide +kernel,
      by decide +kernel⟩, by simp [HoldUnit.transmits, HoldUnit.fresh]⟩

theorem postRestore_sound (wish : Nat → Bool) : (HoldUnit.fresh.postRestore wish).sound := by
  have key : ∀ (l : List Nat) (h : HoldUnit), h.sound → l.Nodup → (∀ t ∈ l, t < 32 ∧ h.state t = .clear) →
      (∀ k, k < 4 → (h.slot k).state = .free) →
      (l.foldl (fun h t => ({ h with waiting := h.waiting ++ [t] }).setState t .waiting) h).sound := by
    intro l
    induction l with
    | nil => exact fun h v _ _ _ => v
    | cons t l ih =>
      intro h v hn hl hf
      obtain ⟨ht, hc⟩ := hl t (by simp)
      have hn' := List.nodup_cons.1 hn
      have hv := (sound_iff h).1 v
      refine ih _ ?_ hn'.2 (fun x hx => ⟨(hl x (by simp [hx])).1, ?_⟩) hf
      · rw [sound_iff]
        refine ⟨?_, hv.2⟩
        rw [setState_view]
        refine hv.1.wait ht ?_ ?_ fun k hk ha => ?_
        · rw [hc]
          decide
        · rw [hc]
          decide
        · rw [hf k hk] at ha
          cases ha
      · rw [state_setState, if_neg]
        · exact (hl x (by simp [hx])).2
        · rintro ⟨rfl, -⟩
          exact hn'.1 hx
  refine key _ _ fresh_sound (List.nodup_range.filter _) (fun t ht => ?_) (fun k hk => ?_)
  · have h32 : t < 32 := by
      simpa using (List.mem_filter.1 ht).1
    exact ⟨h32, (tget_replicate (n := 32) HoldState.clear .clear t).trans (if_pos h32)⟩
  · show (tget (Vector.replicate 4 HoldSlot.fresh) k .fresh).state = .free
    rw [tget_replicate, if_pos hk]
    rfl

end Sound

end Sys2Proof.Machine
end

