-- ==== Sys2Proof/Laws/Links.lean ====
section
/-! SUPPORT. Bytes of fields, and what the two receivers make of whole frames (R91, R92, R179, R181). -/

namespace Sys2Proof.Machine

/-! ### Fields -/

theorem byteAt_u8 {n : Nat} (h : n < 256) : byteAt (u8 n) 0 = n := by
  simp [byteAt, u8]
  omega

theorem bytes16 {n : Nat} (h : n < 65536) : n % 256 + 256 * (n / 256 % 256) = n := by omega

theorem bytes32 {n : Nat} (h : n < 4294967296) :
    n % 256 + 256 * (n / 256 % 256) + 65536 * (n / 65536 % 256) + 16777216 * (n / 16777216 % 256) = n := by
  omega

/-- A list of small numbers read back from its bytes. -/
theorem toNat_ofNat_map (l : List Nat) (h : ∀ x ∈ l, x < 256) :
    (l.map (BitVec.ofNat 8)).map BitVec.toNat = l := by
  rw [List.map_map]
  conv_rhs => rw [← List.map_id l]
  apply List.map_congr_left
  intro x hx
  simp [BitVec.toNat_ofNat, Nat.mod_eq_of_lt (h x hx)]

theorem whenLength_eq {n : Nat} {p : List Byte} {i j : Instr} (h : p.length = n) (hi : i = j) :
    whenLength n p i = .request j := by
  rw [whenLength, if_pos h, hi]

/-- A check read back from its two bytes. -/
theorem checkOf_checkBytes (c : BitVec 16) : checkOf (c.setWidth 8) ((c >>> 8).setWidth 8) = c := by
  apply BitVec.eq_of_getLsbD_eq
  intro i hi
  simp only [checkOf, BitVec.getLsbD_append, BitVec.getLsbD_setWidth, BitVec.getLsbD_ushiftRight]
  by_cases h : i < 8
  · simp [h]
  · have h' : i - 8 < 8 := by omega
    have h'' : 8 + (i - 8) = i := by omega
    simp [h, h', h'']

/-! ### The host receiver -/

/-- A byte that completes no frame moves the receiver alone. -/
theorem receive_of_step {engine : EngineState} {l : HostLink} {b : Byte} {rx : HostRx}
    (h : l.rx.step b = (rx, none)) : l.receive engine b = { l with rx := rx } := by
  simp only [HostLink.receive, h]

/-- Bytes short of the payload's end are stored. -/
theorem receive_payload (engine : EngineState) (bs : List Byte) (l : HostLink) (n : Nat) (stored : List Byte)
    (h : l.rx = .payload n stored) (hl : stored.length + bs.length < n) :
    bs.foldl (HostLink.receive engine) l = { l with rx := .payload n (stored ++ bs) } := by
  induction bs generalizing l stored with
  | nil => simp [← h]
  | cons b bs ih =>
    simp only [List.length_cons] at hl
    have hb : HostLink.receive engine l b = { l with rx := .payload n (stored ++ [b]) } := by
      refine receive_of_step ?_
      rw [h, HostRx.step, if_neg]
      simp only [List.length_append, List.length_singleton]
      omega
    rw [List.foldl_cons, hb, ih _ (stored ++ [b]) rfl (by simp; omega)]
    simp

/-- The bytes of a frame complete that frame. -/
theorem receive_hostFrame (engine : EngineState) (l : HostLink) (body : List Byte) (h : l.rx = .hunting)
    (h1 : 1 ≤ body.length) (h2 : body.length ≤ 241) :
    (hostFrame body).foldl (HostLink.receive engine) l = l.complete engine ⟨body, hostCheck body⟩ := by
  have hb : body ≠ [] := by
    rintro rfl
    simp at h1
  obtain ⟨init, last, rfl⟩ : ∃ i x, body = i ++ [x] := ⟨_, _, (List.dropLast_append_getLast hb).symm⟩
  have hn : (BitVec.ofNat 8 (init ++ [last]).length).toNat = (init ++ [last]).length := by
    simp only [BitVec.toNat_ofNat]
    omega
  simp only [hostFrame, checkBytes, List.foldl_append, List.foldl_cons, List.foldl_nil, u8]
  have e1 : HostLink.receive engine l 0xA5 = { l with rx := .header } := receive_of_step (by rw [h]; rfl)
  have e2 : HostLink.receive engine { l with rx := .header } (BitVec.ofNat 8 (init ++ [last]).length) =
      { l with rx := .payload (init ++ [last]).length [] } :=
    receive_of_step (by rw [HostRx.step, hn, if_pos ⟨h1, h2⟩])
  rw [e1, e2, receive_payload engine init _ (init ++ [last]).length [] rfl (by simp)]
  have e3 : HostLink.receive engine { l with rx := .payload (init ++ [last]).length ([] ++ init) } last =
      { l with rx := .check (init ++ [last]) none } := receive_of_step (by simp [HostRx.step])
  have e4 : ∀ b, HostLink.receive engine { l with rx := .check (init ++ [last]) none } b =
      { l with rx := .check (init ++ [last]) (some b) } := fun b => receive_of_step rfl
  rw [e3, e4]
  simp only [HostLink.receive, HostRx.step, checkOf_checkBytes]
  rw [← h]

/-! ### The line receiver -/

/-- A byte that completes no record moves the receiver alone. -/
theorem lineByte_of_step {s : State} {b : Byte} {rx : LineRx} (h : s.line.rx.step b = (rx, none)) :
    s.lineByte b = s.setLineRx rx := by
  simp only [State.lineByte, h]

theorem setLineRx_self {s : State} {rx : LineRx} (h : s.line.rx = rx) : s.setLineRx rx = s := by
  simp [State.setLineRx, ← h]

/-- Bytes short of the payload's end are stored. -/
theorem lineByte_payload (bs : List Byte) (s : State) (kind : Byte) (n : Nat) (stored : List Byte)
    (h : s.line.rx = .payload kind n stored) (hl : stored.length + bs.length < n) :
    bs.foldl State.lineByte s = s.setLineRx (.payload kind n (stored ++ bs)) := by
  induction bs generalizing s stored with
  | nil => rw [List.append_nil, setLineRx_self h]; rfl
  | cons b bs ih =>
    simp only [List.length_cons] at hl
    have hb : s.lineByte b = s.setLineRx (.payload kind n (stored ++ [b])) := by
      refine lineByte_of_step ?_
      rw [h, LineRx.step, if_neg]
      simp only [List.length_append, List.length_singleton]
      omega
    rw [List.foldl_cons, hb, ih _ (stored ++ [b]) rfl (by simp; omega)]
    simp [State.setLineRx]

/-- The bytes of a record make that record arrive. -/
theorem lineByte_lineFrame (s : State) (kind : Byte) (payload : List Byte) (h : s.line.rx = .hunting)
    (h2 : payload.length ≤ 255) :
    (lineFrame kind payload).foldl State.lineByte s = s.recordArrives ⟨kind, payload, lineCheck kind payload⟩ := by
  simp only [lineFrame, checkBytes, List.foldl_append, List.foldl_cons, List.foldl_nil, u8]
  have e1 : s.lineByte 0x5A = s.setLineRx (.header none) := lineByte_of_step (by rw [h]; rfl)
  have e2 : (s.setLineRx (.header none)).lineByte kind = s.setLineRx (.header (some kind)) := rfl
  have e4 : ∀ b, (s.setLineRx (.check kind payload none)).lineByte b =
      s.setLineRx (.check kind payload (some b)) := fun _ => rfl
  have e5 : ∀ a b, (s.setLineRx (.check kind payload (some a))).lineByte b =
      s.recordArrives ⟨kind, payload, checkOf a b⟩ := by
    intro a b
    show (s.setLineRx .hunting).recordArrives _ = _
    rw [setLineRx_self h]
  have key : List.foldl State.lineByte
      ((s.setLineRx (.header (some kind))).lineByte (BitVec.ofNat 8 payload.length)) payload =
      s.setLineRx (.check kind payload none) := by
    by_cases hb : payload = []
    · subst hb
      rfl
    · obtain ⟨init, last, rfl⟩ : ∃ i x, payload = i ++ [x] := ⟨_, _, (List.dropLast_append_getLast hb).symm⟩
      have hn : (BitVec.ofNat 8 (init ++ [last]).length).toNat = (init ++ [last]).length := by
        simp only [BitVec.toNat_ofNat]
        omega
      have hz : BitVec.ofNat 8 (init ++ [last]).length ≠ 0 := by
        intro hz
        rw [hz] at hn
        simp at hn
      have e3 : (s.setLineRx (.header (some kind))).lineByte (BitVec.ofNat 8 (init ++ [last]).length) =
          s.setLineRx (.payload kind (init ++ [last]).length []) := by
        refine (lineByte_of_step (rx := .payload kind (init ++ [last]).length []) ?_).trans rfl
        show LineRx.step (.header (some kind)) _ = _
        rw [LineRx.step, if_neg hz, hn]
      rw [e3, List.foldl_append, lineByte_payload init _ kind (init ++ [last]).length [] rfl (by simp)]
      have e6 : (s.setLineRx (.payload kind (init ++ [last]).length ([] ++ init))).line.rx.step last =
          (.check kind (init ++ [last]) none, none) := by
        simp [State.setLineRx, LineRx.step]
      exact (lineByte_of_step e6).trans rfl
  rw [e1, e2, key, e4, e5, checkOf_checkBytes]

end Sys2Proof.Machine
end

