-- ==== Sys2Proof/Laws/Requests.lean ====
section
/-! SUPPORT. What reading the values of a request gives (R2, R180), and the pages and counts of the reads of the
element table as passes over its indexes (R24, R89). -/

namespace Sys2Proof.Machine

/-! ### Values (R2, R180) -/

theorem kindOf?_eq (k : Nat) :
    kindOf? k = if k ≤ 1 then some (if k = 1 then .belt else .roller) else none := by
  unfold kindOf?; split_ifs <;> first | rfl | omega

theorem policyOf?_eq (p : Nat) :
    policyOf? p = if p ≤ 1 then some (if p = 1 then .hold else .none) else none := by
  unfold policyOf?; split_ifs <;> first | rfl | omega

theorem boolOf?_eq (n : Nat) : boolOf? n = if n ≤ 1 then some (decide (n = 1)) else none := by
  unfold boolOf?; split_ifs <;> first | omega | simp_all

theorem groupOf?_eq (g : Nat) :
    groupOf? g = if g ≤ 63 ∨ g = 255 then some (if g = 255 then none else some g) else none := by
  unfold groupOf?; split_ifs <;> first | rfl | omega

theorem labelOf?_eq (l : LabelField) :
    labelOf? l =
      if l.count ≤ 8 ∧ ∀ c ∈ l.chars.take l.count, 32 ≤ c.toNat ∧ c.toNat ≤ 126 then some (l.chars.take l.count)
      else none := by
  unfold labelOf? labelOk
  by_cases h : l.count ≤ 8
  · have : (l.chars.take l.count).length ≤ 8 := by rw [List.length_take]; omega
    simp only [h, this, decide_true, Bool.true_and, true_and, List.all_eq_true, Bool.and_eq_true,
      decide_eq_true_eq]
  · simp [h]

theorem modeSetOk_iff : ∀ m : BitVec 8,
    modeSetOk m = true ↔ m ≠ 0 ∧ ∀ mode < 8, m.getLsbD mode = true → 1 ≤ mode ∧ mode ≤ 4 := by
  decide +kernel

/-! ### Pages and counts (R24, R69, R89) -/

/-- A path's bytes, each entry in its one byte. -/
theorem map_ofNat_eq_u8 (p : List Nat) : p.map (BitVec.ofNat 8) = p.flatMap u8 := by
  induction p with
  | nil => rfl
  | cons a p ih => simp [u8, ih]

/-- A page as the first eight matching indexes. -/
theorem listPage_eq_range (s : State) (first : Nat) (filter : BitVec 8) (transport : Nat) :
    s.listPage first filter transport =
      (((List.range' first (240 - first)).filter fun i => (s.element i).listed filter transport).take 8).map
        fun i => (s.element i, i) := by
  rw [State.listPage, tenum_eq_range _ .vacant, List.map_take, ← List.map_drop]
  congr 1
  rw [List.filter_map, List.range_eq_range', List.drop_range']
  simp only [Nat.zero_add, Nat.mul_one]
  rfl

theorem elementsOn_eq_range (s : State) (t : Nat) :
    s.elementsOn t = (List.range 240).countP fun i => match s.fitting? i with
      | some f => f.settings.transport == t
      | none => false := by
  rw [State.elementsOn, tlist_eq_range _ .vacant, List.countP_map]
  rfl

end Sys2Proof.Machine
end

