-- ==== Sys2Proof/Laws/Samples.lean ====
section
/-! SUPPORT. What a sample's examination can do, and that samples, boundaries and claims keep each transport lawful
(R72 to R80, R85 to R88). -/

namespace Sys2Proof.Machine

/-- The record with the sample in its window, before its sensor is examined (R72 steps 1 to 3). -/
theorem examinedSample_eq (o : Options) (drive belt : Nat) (valid : Bool) (r : Transport) :
    r.examinedSample o drive belt valid =
      (Transport.joined (classify o.minimumDrive drive belt valid).isValid
        { r with running := decide (0 < drive) }).examined := rfl

theorem examined_fails {r : Transport} (h : r.sensor = .good) (hc : 6 ≤ r.window.count false) :
    r.examined = { r with sensor := .failed, slip := .clear, overRun := 0, goodRun := 0 } := by
  simp only [Transport.examined, h]
  rw [if_pos (show 6 ≤ r.invalidInWindow from hc)]

theorem examined_stays_good {r : Transport} (h : r.sensor = .good) (hc : r.window.count false < 6) :
    r.examined = r := by
  simp only [Transport.examined, h]
  rw [if_neg (show ¬6 ≤ r.invalidInWindow from Nat.not_le.2 hc)]

theorem examined_recovers {r : Transport} (h : r.sensor = .failed) (hc : 32 ≤ r.validRun) :
    r.examined = { r with sensor := .good, window := [], validRun := 0 } := by
  simp only [Transport.examined, h]
  rw [if_pos hc]

theorem examined_stays_failed {r : Transport} (h : r.sensor = .failed) (hc : r.validRun < 32) :
    r.examined = r := by
  simp only [Transport.examined, h]
  rw [if_neg (Nat.not_le.2 hc)]

theorem joinWindow_length (window : List Bool) (v : Bool) : (joinWindow window v).length ≤ 64 := by
  simp [joinWindow]
  omega

theorem joined_lawful {r : Transport} (h : r.lawful) (v : Bool) (running : Bool) :
    (Transport.joined v { r with running := running }).lawful :=
  ⟨h.1, h.2.1, h.2.2.1, joinWindow_length _ _⟩

theorem examined_lawful {r : Transport} (h : r.lawful) : r.examined.lawful := by
  obtain ⟨h1, h2, h3, h4⟩ := h
  unfold Transport.examined
  split
  · split
    · exact ⟨fun _ => rfl, fun _ => rfl, fun _ => rfl, h4⟩
    · exact ⟨h1, h2, h3, h4⟩
  · split
    · exact ⟨(fun h => by cases h), h2, h3, Nat.zero_le _⟩
    · exact ⟨h1, h2, h3, h4⟩

theorem detect_lawful {r : Transport} (h : r.lawful) (hs : r.sensor = .good) (o : Options) (p : Nat) :
    (r.detect o p).lawful := by
  obtain ⟨h1, h2, h3, h4⟩ := h
  have hg : r.sensor = .failed → r.slip = .clear := h1
  unfold Transport.detect Transport.overLimit Transport.underLimit
  cases hsl : r.slip <;> simp only
  · have := h2 hsl
    split <;> (try split) <;> simp_all [Transport.lawful]
  · have := h3 hsl
    split <;> (try split) <;> simp_all [Transport.lawful]

theorem sample_lawful {r : Transport} (h : r.lawful) (o : Options) (drive belt : Nat) (valid : Bool) :
    (r.sample o drive belt valid).lawful := by
  have he : (r.examinedSample o drive belt valid).lawful := examined_lawful (joined_lawful h _ _)
  have hd : (r.detectedSample o drive belt valid).lawful := by
    unfold Transport.detectedSample
    simp only
    split
    · exact detect_lawful he (by assumption) o _
    · exact he
  exact hd

theorem countItem_lawful {r : Transport} (h : r.lawful) : r.countItem.lawful := h

theorem countJam_lawful {r : Transport} (h : r.lawful) : r.countJam.lawful := h

theorem countMinute_lawful {r : Transport} (h : r.lawful) : r.countMinute.lawful := by
  unfold Transport.countMinute
  split <;> exact h

theorem closeInterval_lawful {r : Transport} (h : r.lawful) : r.closeInterval.lawful := h

theorem halt_lawful {r : Transport} (h : r.lawful) : r.halt.lawful := h

end Sys2Proof.Machine
end

