-- ==== Sys2Proof/Laws/Work.lean ====
section
/-! SUPPORT. What the divided operations can do: a property that each act keeps is kept by the work of a record and
by the run charges of a tick, however they are cut (R27, R28, R34, R39, R40, R42). -/

namespace Sys2Proof.Machine

variable {P : State → Prop}

/-- A property kept by each act of a pass is kept by the pass. -/
theorem foldl_keeps_prop {α β : Type} {Q : α → Prop} {f : α → β → α} (h : ∀ a b, Q a → Q (f a b)) (l : List β)
    {a : α} (ha : Q a) : Q (l.foldl f a) := by
  induction l generalizing a with
  | nil => exact ha
  | cons b l ih => exact ih (h a b ha)

/-- A property kept by every charge of an assigned element. -/
def KeptByCharges (P : State → Prop) : Prop :=
  ∀ s i f c, s.fitting? i = some f → P s → P (s.applyCharge i f c)

theorem chargePosition_keeps (h : KeptByCharges P) (it : Item) (acc : State × List Nat) (i : Nat) (ha : P acc.1) :
    P (chargePosition it acc i).1 := by
  unfold chargePosition
  dsimp only
  split
  · rename_i f hf
    split
    · exact h _ _ _ _ hf ha
    · exact ha
  · exact ha

theorem runCharge_keeps (h : KeptByCharges P) (carried : Option Nat) (s : State) (i : Nat) (hs : P s) :
    P (runCharge carried s i) := by
  unfold runCharge
  split
  · rename_i f hf
    split
    · exact h _ _ _ _ hf hs
    · exact hs
  · exact hs

theorem jamCharge_keeps (h : KeptByCharges P) (t severity : Nat) (s : State) (i : Nat) (hs : P s) :
    P (jamCharge t severity s i) := by
  unfold jamCharge
  split
  · rename_i f hf
    split
    · exact h _ _ _ _ hf hs
    · exact hs
  · exact hs

/-- A property kept by each thing that the work of a record does. -/
structure KeptByWork (P : State → Prop) : Prop where
  charges : KeptByCharges P
  work : ∀ s w, P s → P (s.setWork w)
  done : ∀ s, P s → P s.recordDone
  counted : ∀ s t, P s → P (s.onTransport t Transport.countItem)

theorem handOffTransports_keeps (h : KeptByWork P) (s : State) (ts : List Nat) (hs : P s) :
    P (s.handOffTransports ts) :=
  foldl_keeps_prop (fun u t hu => h.counted u t hu) _ hs

theorem itemWork_keeps (h : KeptByWork P) (s : State) (acts : Option Nat) (it : Item) (path ts : List Nat)
    (hs : P s) : P (s.itemWork acts it path ts) := by
  have passed : ∀ l : List Nat, P (l.foldl (chargePosition it) (s, ts)).1 := fun l =>
    foldl_keeps_prop (Q := fun acc : State × List Nat => P acc.1)
      (fun acc i ha => chargePosition_keeps h.charges it acc i ha) l hs
  unfold State.itemWork
  dsimp only
  split
  · exact h.work _ _ (passed _)
  · exact h.done _ (handOffTransports_keeps h _ _ (passed _))

theorem jamWork_keeps (h : KeptByWork P) (s : State) (acts : Option Nat) (t severity next : Nat) (charged : Bool)
    (hs : P s) : P (s.jamWork acts t severity next charged) := by
  have passed : ∀ l : List Nat, P (l.foldl (jamCharge t severity) s) := fun l =>
    foldl_keeps_prop (fun u i hu => jamCharge_keeps h.charges t severity u i hu) l hs
  unfold State.jamWork
  dsimp only
  split
  · exact h.work _ _ (passed _)
  · exact h.done _ (passed _)

theorem goOn_keeps (h : KeptByWork P) (s : State) (acts : Option Nat) (hs : P s) : P (s.goOn acts) := by
  unfold State.goOn
  split
  · exact itemWork_keeps h _ _ _ _ _ (h.work _ _ hs)
  · exact jamWork_keeps h _ _ _ _ _ _ (h.work _ _ hs)
  · exact hs

/-- The run charges of a tick change the timer besides their charges. -/
theorem runOn_keeps (h : KeptByCharges P) (timer : ∀ (s : State) m, P s → P { s with timer := m }) (s : State)
    (acts : Option Nat) (hs : P s) : P (s.runOn acts) := by
  unfold State.runOn
  dsimp only
  split
  · exact timer _ _ (foldl_keeps_prop (fun u i hu => runCharge_keeps h _ u i hu) _ hs)
  · exact hs

/-- A roll changes the elements and the timer, and its end replans and may trigger a checkpoint (R135 to R137). -/
theorem rollOn_keeps {carried : Option Nat} {next : Nat}
    (rolled : ∀ (s : State) L n m, P s →
      P { s with elements := rollTable L carried next n s.elements, timer := m })
    (replanned : ∀ s, P s → P s.replan) (triggered : ∀ s, P s → P s.triggerCheckpoint) (s : State)
    (examined : Option Nat) (hs : P s) : P (s.rollOn carried next examined) := by
  unfold State.rollOn
  dsimp only
  split
  · exact rolled s _ _ _ hs
  · unfold State.rollComplete
    split
    · exact triggered _ (replanned _ (rolled s _ _ _ hs))
    · exact replanned _ (rolled s _ _ _ hs)

end Sys2Proof.Machine
end

