-- ==== Sys2Proof/Tests/Slice0.lean ====
section
/-! SUPPORT. The model's own tests: the well-formedness check, the checks of both links, one or two steps of each
command on small states, values of the manual's examples, and for each statement a state and operands that meet its
hypotheses, clause by clause. -/

namespace Sys2Proof.Machine

section Tests

set_option Elab.async false

/-! ### Well-formedness: one ill-formed command for each check -/

def labelAB : LabelField := ⟨2, [65, 66, 0, 0, 0, 0, 0, 0]⟩

def someFields : SettingFields where
  kind := 1
  transport := 3
  label := labelAB
  weights := ⟨1, 2, 3, 4⟩
  runWeight := 2
  jamWeight := 50
  modeSet := 2
  advisory := 100
  due := 200
  limit := 300
  quota := 0
  group := 5
  cost := 4
  policy := 1

def someWeights : WeightFields := ⟨⟨4, 3, 2, 1⟩, 7, 60, 6, 255, 2, 0, labelAB⟩

def defaultFields : OptionFields := ⟨15, 10080, 75, 30, 4, 8, 2, 100, 2000, 5, 1⟩

theorem test_wf_accepts :
    (Instr.assignElement 17 someFields 99).wf = true ∧ (Instr.setWeights 17 someWeights).wf = true ∧
    (Instr.setOptions defaultFields).wf = true ∧ (Instr.setCommonPath [1, 255]).wf = true ∧
    (Instr.setRoute 255 255 0 255 (List.replicate 234 255)).wf = true ∧
    (Instr.lineRecordArrival [0]).wf = true := by decide +kernel

theorem test_wf_refuses_widths :
    (Instr.setClock 4294967296).wf = false ∧ (Instr.readElement 256).wf = false ∧
    (Instr.addWindow 0 65536 1).wf = false ∧ (Instr.addWindow 4294967296 0 1).wf = false ∧
    (Instr.addWindow 0 0 256).wf = false ∧ (Instr.setThresholds 0 4294967296 0 0).wf = false ∧
    (Instr.setThresholds 0 0 4294967296 0).wf = false ∧ (Instr.setThresholds 0 0 0 4294967296).wf = false ∧
    (Instr.setThresholds 256 0 0 0).wf = false := by decide

theorem test_wf_refuses_one_byte_fields :
    (Instr.replaceElement 256).wf = false ∧ (Instr.retireElement 256).wf = false ∧
    (Instr.listElements 256 1 0).wf = false ∧ (Instr.listElements 0 1 256).wf = false ∧
    (Instr.waiveHold 256 0).wf = false ∧ (Instr.waiveHold 0 256).wf = false ∧
    (Instr.setWatch 256).wf = false ∧ (Instr.armCapture 256 0).wf = false ∧
    (Instr.armCapture 0 256).wf = false ∧ (Instr.setMask 256 0).wf = false ∧
    (Instr.clearRoute 256).wf = false ∧ (Instr.readRoute 256).wf = false ∧
    (Instr.readRouteCounts 256).wf = false ∧ (Instr.readTransport 256).wf = false ∧
    (Instr.readIntervalCounts 256 0).wf = false ∧ (Instr.readIntervalCounts 0 256).wf = false ∧
    (Instr.abortHold 256).wf = false ∧ (Instr.releaseHold 256).wf = false ∧
    (Instr.removeWindow 256).wf = false ∧ (Instr.pin 256 0).wf = false ∧ (Instr.pin 0 256).wf = false ∧
    (Instr.unpin 256).wf = false ∧ (Instr.readPlan 256).wf = false ∧ (Instr.readWindows 256).wf = false := by
  decide

theorem test_wf_refuses_events :
    (Instr.resetPin 241).wf = false ∧ (Instr.powerLoss .invalid 241 true).wf = false ∧
    (Instr.holdTimerExpiry 4).wf = false ∧ (Instr.lineRecordArrival []).wf = false ∧
    (Instr.lineRecordArrival (List.replicate 261 0)).wf = false ∧ (Instr.hostFrameComplete []).wf = false ∧
    (Instr.hostFrameComplete (List.replicate 246 0)).wf = false := by decide +kernel

theorem test_wf_refuses_paths :
    (Instr.setRoute 256 0 0 0 []).wf = false ∧ (Instr.setRoute 0 256 0 0 []).wf = false ∧
    (Instr.setRoute 0 0 0 256 []).wf = false ∧ (Instr.setRoute 0 0 0 0 [256]).wf = false ∧
    (Instr.setRoute 0 0 0 0 (List.replicate 235 0)).wf = false ∧ (Instr.setCommonPath [256]).wf = false ∧
    (Instr.setCommonPath (List.replicate 240 0)).wf = false := by decide +kernel

theorem test_wf_refuses_settings :
    (Instr.assignElement 256 someFields 0).wf = false ∧
    (Instr.assignElement 0 someFields 4294967296).wf = false ∧
    ({ someFields with kind := 256 } : SettingFields).wf = false ∧
    ({ someFields with transport := 256 } : SettingFields).wf = false ∧
    ({ someFields with label := ⟨256, labelAB.chars⟩ } : SettingFields).wf = false ∧
    ({ someFields with label := ⟨0, []⟩ } : SettingFields).wf = false ∧
    ({ someFields with weights := ⟨256, 0, 0, 0⟩ } : SettingFields).wf = false ∧
    ({ someFields with weights := ⟨0, 256, 0, 0⟩ } : SettingFields).wf = false ∧
    ({ someFields with weights := ⟨0, 0, 256, 0⟩ } : SettingFields).wf = false ∧
    ({ someFields with weights := ⟨0, 0, 0, 256⟩ } : SettingFields).wf = false ∧
    ({ someFields with runWeight := 256 } : SettingFields).wf = false ∧
    ({ someFields with jamWeight := 65536 } : SettingFields).wf = false ∧
    ({ someFields with advisory := 4294967296 } : SettingFields).wf = false ∧
    ({ someFields with due := 4294967296 } : SettingFields).wf = false ∧
    ({ someFields with limit := 4294967296 } : SettingFields).wf = false ∧
    ({ someFields with quota := 65536 } : SettingFields).wf = false ∧
    ({ someFields with group := 256 } : SettingFields).wf = false ∧
    ({ someFields with cost := 256 } : SettingFields).wf = false ∧
    ({ someFields with policy := 256 } : SettingFields).wf = false := by decide

theorem test_wf_refuses_weights :
    (Instr.setWeights 256 someWeights).wf = false ∧
    ({ someWeights with weights := ⟨0, 0, 0, 256⟩ } : WeightFields).wf = false ∧
    ({ someWeights with runWeight := 256 } : WeightFields).wf = false ∧
    ({ someWeights with jamWeight := 65536 } : WeightFields).wf = false ∧
    ({ someWeights with group := 256 } : WeightFields).wf = false ∧
    ({ someWeights with cost := 256 } : WeightFields).wf = false ∧
    ({ someWeights with policy := 256 } : WeightFields).wf = false ∧
    ({ someWeights with label := ⟨0, []⟩ } : WeightFields).wf = false := by decide

theorem test_wf_refuses_options :
    ({ defaultFields with intervalLength := 256 } : OptionFields).wf = false ∧
    ({ defaultFields with horizon := 65536 } : OptionFields).wf = false ∧
    ({ defaultFields with companionPercent := 256 } : OptionFields).wf = false ∧
    ({ defaultFields with slipLimit := 65536 } : OptionFields).wf = false ∧
    ({ defaultFields with slipSetCount := 256 } : OptionFields).wf = false ∧
    ({ defaultFields with slipClearCount := 256 } : OptionFields).wf = false ∧
    ({ defaultFields with slipFactor := 256 } : OptionFields).wf = false ∧
    ({ defaultFields with minimumDrive := 65536 } : OptionFields).wf = false ∧
    ({ defaultFields with answerTimeout := 65536 } : OptionFields).wf = false ∧
    ({ defaultFields with deferral := 256 } : OptionFields).wf = false ∧
    ({ defaultFields with autoSave := 256 } : OptionFields).wf = false := by decide

/-! ### Words, checks -/

/-- No row gives bits. -/
theorem test_no_word_spells_a_command : decodeTableWord 8 1 = none ∧ State.reset.withFetchWord 8 1 = State.reset :=
  ⟨rfl, rfl⟩

def digits : List Byte := [0x31, 0x32, 0x33, 0x34, 0x35, 0x36, 0x37, 0x38, 0x39]

/-- R91 and R163 give the checks of the nine digits. -/
theorem test_crc : crc16 digits = 0x29B1 ∧ crc32 digits = 0xCBF43926 := by decide +kernel

/-! ### Small states -/

def someSettings : Settings where
  kind := .belt
  transport := 3
  label := [65, 66]
  weights := ⟨1, 2, 3, 4⟩
  runWeight := 2
  jamWeight := 50
  modeSet := 2
  advisory := 100
  due := 200
  limit := 300
  quota := 0
  group := some 5
  cost := 4
  policy := .hold

def fittedAt (accumulator : Nat) : Fitting :=
  ((someSettings.fitted accumulator).settle true true 15 none).fitting

/-- Elements put at their positions, each of generation 1. -/
def State.withFitted (s : State) (l : List (Nat × Fitting)) : State :=
  l.foldl (fun s x => s.setElement x.1 ⟨1, .assigned x.2⟩) s

/-- COUNTING at minute 1,000 in SORT, with element 17 in SERVICE and element 18 in LIMIT, both on transport 3. -/
def plant : State :=
  { State.reset with
    engine := .counting
    clock := some 1000
    wear := { WearEngine.fresh with mode := .sort, watched := some 17 }
    alerts := { AlertUnit.fresh with marks := 0 } }.withFitted [(17, fittedAt 99), (18, fittedAt 300)]

def stoppedPlant : State := { plant with engine := .stopped }

/-- The request is in hand, dispatched last. -/
def State.asking (s : State) (i : Instr) : State :=
  { s with host := { s.host with inHand := some ⟨requestCode i, .executing i⟩, tx := none } }

def landed (o : Host.Outcome State Fault Refusal) : State :=
  match o with
  | .next s => s
  | .fault _ => State.reset
  | .refused _ => State.reset

/-- The state after a request in hand is executed. -/
def State.ask (s : State) (i : Instr) : State := landed (exec i (s.asking i))

/-- The state after an event. -/
def State.after (s : State) (i : Instr) : State := landed (exec i s)

/-- The status and payload of the reply being sent. -/
def State.replied (s : State) : Option (Status × List Byte) :=
  match s.host.inHand with
  | some ⟨_, .sending r⟩ => some (r.status, r.payload)
  | _ => none

def lineItem : Item := ⟨7, 0x205, 1, 101, false, false⟩

def itemBytes : List Byte := u32 7 ++ u16 0x205 ++ u8 1 ++ u16 101 ++ u8 0

def State.intaking (s : State) (l : List LineRecord) : State := { s with line := { s.line with intake := l } }

def State.accumulatorOf (s : State) (i : Nat) : Option Nat := (s.fitting? i).map fun f => f.accumulator

def State.stateOf (s : State) (i : Nat) : Option AssignedState := (s.fitting? i).map fun f => f.state

/-- How the next rows are cut (notes/assumptions/4.md). -/
def State.cutting (s : State) (l : List (Option Nat)) : State :=
  { s with schedule := { s.schedule with cuts := l } }

def State.atBoundary (s : State) (b : Option BoundaryMark) : State :=
  { s with timer := { s.timer with boundary := b } }

/-! ### One step of each command: power and start-up -/

theorem test_powerOn : (plant.after .powerOn).engine = .starting ∧ (plant.after .powerOn).clock = none ∧
    (plant.after .powerOn).host.tx = some (.notice 17 0 none) := by decide +kernel

theorem test_resetPin :
    (plant.after (.resetPin 0)).engine = .starting ∧ (plant.after (.resetPin 0)).fitting? 17 = none := by
  decide +kernel

def State.checkpointing (s : State) (p : Progress) : State :=
  { s with ckpt := { CheckpointUnit.fresh with progress := p, sequence := 9 } }

/-- A part whose checkpoint has element 17's record due. -/
def due17 : State := stoppedPlant.checkpointing (.due 18)

/-- A part that is writing element 17's record. -/
def writing17 : State := stoppedPlant.checkpointing (.writing (.element 17 (stoppedPlant.elementCopy 17 9)))

theorem test_powerLoss_tears :
    (writing17.after (.powerLoss .invalid 0 false)).store.element 17 = .torn ∧
    (writing17.after (.powerLoss .oldRecord 0 false)).store.element 17 = .blank ∧
    (writing17.after (.powerLoss .newRecord 0 false)).store.element 17 =
      .written (stoppedPlant.elementCopy 17 9) ∧
    (writing17.after (.powerLoss .invalid 0 false)).powered = false ∧
    (due17.after (.powerLoss .newRecord 0 false)).store.element 17 = .written (stoppedPlant.elementCopy 17 9) := by
  decide +kernel

/-- A reset-pin start-up completes a write that has begun, and begins none (R176). -/
theorem test_resetPin_writes :
    (writing17.after (.resetPin 0)).store.element 17 = .written (stoppedPlant.elementCopy 17 9) ∧
    (due17.after (.resetPin 0)).store.element 17 = .blank := by decide +kernel

/-- Element 17 saved, the header blank: outcome DEFAULTS, the accumulator as saved. -/
theorem test_startupEnd :
    let s := ((writing17.after (.powerLoss .newRecord 0 false)).after .powerOn).after .startupEnd
    s.engine = .stopped ∧ s.ckpt.outcome = .defaults ∧ s.accumulatorOf 17 = some 99 ∧ s.timer.running = true ∧
      (s.element 17).generation = 1 := by decide +kernel

theorem test_startupEnd_torn :
    let s := ((writing17.after (.powerLoss .invalid 0 false)).after .powerOn).after .startupEnd
    (s.element 17).position = .suspect ∧ s.ckpt.outcome = .incomplete ∧ s.ckpt.suspects = 1 ∧
      s.alerts.latched.getLsbD 16 = true ∧ tget s.alerts.subjects 16 0 = 17 := by decide +kernel

/-- The restore made before the end: RESTORE_INCOMPLETE is sent in STARTING, and the restore is made once. -/
theorem test_restore_before_end :
    let s := ((writing17.after (.powerLoss .invalid 0 false)).after .powerOn).cutting [some 0]
    let u := (s.after .startupEnd).after .noticeSent
    u.engine = .starting ∧ (u.element 17).position = .suspect ∧ u.host.tx = some (.notice 16 17 none) ∧
      (u.after .startupEnd).engine = .stopped ∧ (u.after .startupEnd).ckpt = u.ckpt := by decide +kernel

/-! ### One step of each command: the line -/

theorem test_lineRecordArrival :
    (plant.after (.lineRecordArrival (lineFrame 0x11 itemBytes))).line.intake = [.item lineItem] ∧
    (plant.after (.lineRecordArrival (lineFrame 0x11 itemBytes))).wear.received = 1 ∧
    (plant.after (.lineRecordArrival (lineFrame 0x77 itemBytes))).line.errors = 1 := by decide +kernel

theorem test_lineByteReceived :
    (plant.after (.lineByteReceived 0x5A)).line.rx = .header none ∧
    ((plant.after (.lineByteReceived 0x5A)).after (.lineByteReceived 0x14)).line.rx = .header (some 0x14) := by
  decide +kernel

theorem test_lineRecordAbandoned :
    let s := ((plant.after (.lineByteReceived 0x5A)).after (.lineByteReceived 0x14)).after .lineRecordAbandoned
    s.line.rx = .hunting ∧ s.line.errors = 1 ∧ tget s.alerts.subjects 9 0 = 0x14 := by decide +kernel

/-- Destination 0x205, class 1 and 101 mm on a BELT in SERVICE of 99: class weight 2 with L = 2, to 103, ADVISED. -/
theorem test_takeRecord_item :
    let s := { plant with routes := { RouteMap.fresh with commonPath := [17] } }.intaking [.item lineItem]
    let u := s.after .takeRecord
    u.accumulatorOf 17 = some 103 ∧ u.stateOf 17 = some .advised ∧ u.routes.unrouted = 1 ∧
      u.wear.ring = [⟨.item 7, 4, 103⟩] ∧ (u.transport 3).live.items = 1 ∧
      u.plan.queue.map PlanEntry.element = [17] := by decide +kernel

theorem test_takeRecord_others :
    ((plant.intaking [.mode .jog]).after .takeRecord).wear.mode = .jog ∧
    ((plant.intaking [.tach 3 2500 2410 true]).after .takeRecord).transport 3 =
      { Transport.fresh with
        running := true, overRun := 1, window := [true], validRun := 1, last := some ⟨2500, 2410, .evaluated 36⟩,
        live := ⟨0, 0, 1, 0, 0⟩ } ∧
    ((plant.intaking [.jam 3 2]).after .takeRecord).accumulatorOf 17 = some 199 := by decide +kernel

/-- Slot 0 has asked for transport 3, and its request is being sent. -/
def asked : State := { plant with hold := plant.hold.reevaluate true true 3 }

theorem test_lineTxSent :
    asked.hold.transmit = [.request 0 3] ∧ asked.hold.sending = true ∧
    (asked.after .lineTxSent).hold.slot 0 = ⟨.sent, some 3, .none, some 2000⟩ ∧
    (asked.after .lineTxSent).hold.transmit = [] := by decide +kernel

theorem test_holdTimerExpiry :
    let s := (asked.after .lineTxSent).after (.holdTimerExpiry 0)
    s.hold.slot 0 = ⟨.free, some 3, .lapsed, none⟩ ∧ s.hold.state 3 = .deferred 5 ∧
      s.alerts.latched.getLsbD 7 = true := by decide +kernel

/-- GRANTED with the slot's tag and transport. -/
theorem test_hold_answer :
    let s := (asked.after .lineTxSent).after (.lineRecordArrival (lineFrame 0x15 [0, 3, 1]))
    s.hold.state 3 = .held ∧ s.line.strays = 0 ∧
      (s.after (.lineRecordArrival (lineFrame 0x15 [0, 3, 1]))).line.strays = 1 := by decide +kernel

/-- An ITEM whose path charges element 17 twice, cut between the two charges. -/
def itemCut : State :=
  (({ plant with routes := { RouteMap.fresh with commonPath := [17, 17] } }.intaking [.item lineItem]).cutting
    [some 1]).after .takeRecord

/-- REPLACE between two charges of one element: each generation has the charge that falls in it (R28). -/
theorem test_item_in_parts :
    let u := (itemCut.ask (.replaceElement 17)).after .takeRecord
    itemCut.accumulatorOf 17 = some 103 ∧ itemCut.wear.work = some (.item lineItem [17] [3]) ∧
      (itemCut.transport 3).live.items = 0 ∧ (u.element 17).generation = 2 ∧ u.accumulatorOf 17 = some 4 ∧
      u.wear.work = none ∧ (u.transport 3).live.items = 1 := by decide +kernel

/-- A JAM cut between elements 17 and 18. -/
def jamCut : State := ((plant.intaking [.jam 3 1]).cutting [some 18]).after .takeRecord

theorem test_jam_in_parts :
    jamCut.wear.work = some (.jam 3 1 18 true) ∧ jamCut.accumulatorOf 17 = some 149 ∧
    jamCut.accumulatorOf 18 = some 300 ∧ (jamCut.after .takeRecord).accumulatorOf 18 = some 350 := by
  decide +kernel

/-! ### One step of each command: time -/

theorem test_minuteTick :
    let s := { plant with transports := tset plant.transports 3 { Transport.fresh with running := true } }
    let u := s.after .minuteTick
    u.clock = some 1001 ∧ u.accumulatorOf 17 = some 101 ∧ u.timer.intervalCount = 1 ∧
      (u.transport 3).live.runningMinutes = 1 := by decide +kernel

/-- Run charges cut between elements 17 and 18. -/
def runsCut : State :=
  ({ plant with transports := tset plant.transports 3 { Transport.fresh with running := true } }.cutting
    [some 18]).after .minuteTick

theorem test_runs_in_parts :
    let u := runsCut.after .minuteTick
    runsCut.accumulatorOf 17 = some 101 ∧ runsCut.accumulatorOf 18 = some 300 ∧
      runsCut.timer.runs = some ⟨some 1001, 18⟩ ∧ u.accumulatorOf 18 = some 302 ∧ u.clock = some 1001 ∧
      u.timer.runs = none := by decide +kernel

theorem test_minuteTick_last_minute :
    let u := { plant with clock := some maxMinute }.after .minuteTick
    u.clock = none ∧ u.alerts.latched.getLsbD 17 = true := by decide +kernel

/-- Transport 3 wants a hold and its countdown ends at the next tick. -/
def ending : State := { plant with hold := plant.hold.setState 3 (.deferred 1) }

theorem test_deferralEnd :
    let u := (ending.after .minuteTick).after .deferralEnd
    (ending.after .minuteTick).timer.holdTick = true ∧ u.hold.state 3 = .asking ∧
      u.hold.transmit = [.request 0 3] := by decide +kernel

/-- A window that ends at minute 1,001 with element 18's entry in it. -/
def windowed : State :=
  { plant with
    plan :=
      { windows := tset plant.plan.windows 0 (some ⟨900, 101, 8, 4, 0⟩)
        queue := [⟨18, 1, .now, .limit, some 0, false, false, 4⟩] } }

theorem test_windowExpiry :
    let u := (windowed.after .minuteTick).after .windowExpiry
    (windowed.after .minuteTick).timer.planTick = some (some 1001) ∧ u.plan.window 0 = none ∧
      u.plan.queue = [⟨18, 1, .now, .limit, none, false, false, 4⟩] ∧ u.alerts.latched.getLsbD 13 = true := by
  decide +kernel

theorem test_intervalBoundary :
    let s := { plant with timer := { plant.timer with intervalCount := 14 } }
    let u := (s.after .minuteTick).after .intervalBoundary
    (s.after .minuteTick).timer.boundary = some ⟨some 1001, .due⟩ ∧ (s.after .minuteTick).timer.snapshot = true ∧
      u.timer.boundary = none ∧ u.snapshotTaken = true ∧
      (u.fitting? 17).map (fun f => f.intervals) = some 1 ∧ u.ckpt.progress.cursor = 240 ∧ u.ckpt.sequence = 1 := by
  decide +kernel

/-- A boundary at the element table waits for a record that has been charged: both charges fall in the interval that
ends (R28). -/
theorem test_roll_waits :
    let s := { itemCut with timer := { itemCut.timer with intervalCount := 14 } }
    let waiting := (s.after .minuteTick).after .intervalBoundary
    let done := waiting.after .takeRecord
    waiting.timer.boundary = some ⟨some 1001, .waits⟩ ∧ waiting.snapshotTaken = true ∧
      done.timer.boundary = some ⟨some 1001, .rolling 0⟩ ∧
      ((done.after .intervalBoundary).fitting? 17).map (fun f => f.history.headD 0) = some 8 := by decide +kernel

theorem test_checkpointRecordWritten :
    let u := writing17.after (.checkpointRecordWritten .verified)
    u.ckpt.progress = .due 19 ∧ u.store.element 17 = .written (stoppedPlant.elementCopy 17 9) ∧
      (writing17.after (.checkpointRecordWritten .leftInvalid)).ckpt.firstFailed = some 17 ∧
      (due17.after (.checkpointRecordWritten .verified)).store = u.store := by decide +kernel

/-- A RETIRE before the copy is saved, and one between the copy and its write is not; the cursor stays (R169). -/
theorem test_copy_moment :
    let retire := fun s : State => s.ask (.retireElement 17)
    let begun := (due17.cutting [some 0]).after (.checkpointRecordWritten .verified)
    ((retire due17).after (.checkpointRecordWritten .verified)).store.element 17 = .written ⟨17, 1, .vacant, 9⟩ ∧
    (begun.ckpt.progress = writing17.ckpt.progress ∧ begun.store = due17.store ∧ begun.ckpt.progress.cursor = 17) ∧
    ((retire begun).after (.checkpointRecordWritten .verified)).store.element 17 =
      .written (stoppedPlant.elementCopy 17 9) := by decide +kernel

/-! ### One step of each command: the host link -/

theorem test_hostByteReceived : (plant.after (.hostByteReceived 0xA5)).host.rx = .header := by decide +kernel

theorem test_hostFrameComplete :
    (plant.after (.hostFrameComplete (hostFrame [0x41]))).host.inHand = some ⟨0x41, .executing .status⟩ ∧
    (plant.after (.hostFrameComplete (hostFrame [0x01, 0x00]))).replied = some (.badLength, []) ∧
    (plant.after (.hostFrameComplete (hostFrame [0x0A]))).replied = some (.unknownCommand, []) := by decide +kernel

theorem test_hostFrameAbandoned :
    ((plant.after (.hostByteReceived 0xA5)).after .hostFrameAbandoned).host.rx = .hunting := by decide +kernel

theorem test_hostReplySent :
    (plant.ask .readCapture).host.tx = some .reply ∧
    ((plant.ask .readCapture).after .hostReplySent).host = HostLink.fresh ∧
    ((plant.ask .restart).after .hostReplySent).engine = .starting := by decide +kernel

/-- A reply is being sent, STATUS is held, and CLOCK_UNSET is pending. -/
def replying (prompt : Bool) : State :=
  { plant with
    host :=
      { plant.host with
        inHand := some ⟨1, .sending ⟨0x81, .ok, [], [], .nothing⟩⟩
        held := some ⟨[1], hostCheck [1]⟩
        tx := some .reply }
    alerts := { plant.alerts with marks := 0x20000 }
    schedule := ⟨[], [prompt]⟩ }

/-- 10.8: a reply that is ready when the transmitter next chooses goes before a pending notice. -/
theorem test_reply_before_notice :
    ((replying true).after .hostReplySent).host.tx = some .reply ∧
    ((replying true).after .hostReplySent).alerts.marks = 0x20000 ∧
    ((replying false).after .hostReplySent).host.tx = some (.notice 17 0 (some 1000)) ∧
    ((replying false).after .hostReplySent).host.inHand = some ⟨1, .executing .status⟩ := by decide +kernel

theorem test_busyReplySent :
    let s := { plant with host := { plant.host with tx := some (.busy 0x01) } }
    (s.after .busyReplySent).host.tx = none := by decide +kernel

theorem test_noticeSent :
    (State.reset.after .noticeSent).host.tx = some (.notice 17 0 none) ∧
    ((State.reset.after .noticeSent).after .noticeSent).host.tx = none := by decide +kernel

/-! ### One step of each command: requests on the part -/

theorem test_status : ((plant.ask .status).replied.map Prod.fst) = some .ok ∧
    ((plant.ask .status).replied.map fun r => r.2.take 8) = some [2, 1, 0xE8, 3, 0, 0, 15, 0] := by decide +kernel

theorem test_setClock :
    (stoppedPlant.ask (.setClock 5)).replied = some (.ok, [5, 0, 0, 0]) ∧
    (stoppedPlant.ask (.setClock 5)).clock = some 5 ∧
    (plant.ask (.setClock 5)).replied = some (.wrongState, []) := by decide +kernel

theorem test_start_stop :
    (stoppedPlant.ask .start).engine = .counting ∧ (plant.ask .start).replied = some (.wrongState, []) ∧
    (plant.ask .stop).engine = .stopped ∧ (plant.ask .stop).ckpt.progress.isWriting = true := by decide +kernel

theorem test_restart : (plant.ask .restart).replied = some (.ok, []) := by decide +kernel

theorem test_wipe :
    (stoppedPlant.ask .wipe).replied = some (.started, []) ∧
    ((stoppedPlant.ask .wipe).after .hostReplySent).ckpt.erasing = true ∧
    (plant.ask .wipe).replied = some (.wrongState, []) := by decide +kernel

theorem test_setOptions :
    (plant.ask (.setOptions { defaultFields with slipLimit := 5 })).options.slipLimit = 5 ∧
    (plant.ask (.setOptions { defaultFields with intervalLength := 60 })).replied = some (.wrongState, []) := by
  decide +kernel

theorem test_readOptions :
    ((plant.ask .readOptions).replied.map fun r => r.2.drop 15) = some [0xFF, 0xBF, 7, 0] := by decide +kernel

theorem test_clearCounts :
    let s := { plant with wear := { plant.wear with received := 9, counted := 8 } }.intaking [.item lineItem]
    (s.ask .clearCounts).wear.received = 1 ∧ (s.ask .clearCounts).wear.counted = 0 := by decide +kernel

/-! ### One step of each command: requests on elements -/

theorem test_assignElement :
    let u := plant.ask (.assignElement 239 someFields 250)
    u.replied = some (.ok, [239, 5, 1, 0]) ∧ u.stateOf 239 = some .due ∧ (u.element 239).generation = 1 ∧
      (plant.ask (.assignElement 17 someFields 0)).replied = some (.elementState, []) := by decide +kernel

theorem test_replaceElement :
    let u := plant.ask (.replaceElement 18)
    u.replied = some (.ok, [18, 3, 2, 0]) ∧ u.accumulatorOf 18 = some 0 := by decide +kernel

theorem test_retireElement :
    (plant.ask (.retireElement 17)).replied = some (.ok, [17, 1, 0]) ∧
    (plant.ask (.retireElement 17)).element 17 = ⟨1, .vacant⟩ := by decide +kernel

theorem test_setThresholds :
    let u := plant.ask (.setThresholds 17 99 200 300)
    u.replied = some (.ok, [17, 4, 3, 0, 0, 0, 0]) ∧ u.alerts.latched.getLsbD 0 = true ∧
      (plant.ask (.setThresholds 18 99 200 300)).replied = some (.elementState, []) := by decide +kernel

theorem test_setWeights :
    let u := plant.ask (.setWeights 17 someWeights)
    u.replied = some (.ok, [17]) ∧ (u.fitting? 17).map (fun f => f.settings.cost) = some 2 := by decide +kernel

theorem test_readElement :
    (plant.ask (.readElement 0)).replied = some (.ok, [0, 0, 0, 0]) ∧
    (plant.ask (.readElement 240)).replied = some (.badValue, []) ∧
    ((plant.ask (.readElement 17)).replied.map fun r => r.2.take 6) = some [17, 3, 1, 0, 1, 3] := by decide +kernel

theorem test_listElements :
    (plant.ask (.listElements 0 0x40 255)).replied =
      some (.ok, [1, 18, 6, 1, 3, 2, 65, 66, 0, 0, 0, 0, 0, 0, 0x2C, 1, 0, 0, 1, 0, 0, 0, 0, 255]) := by
  decide +kernel

theorem test_waiveHold :
    let u := asked.ask (.waiveHold 18 1)
    u.replied = some (.ok, [18, 1]) ∧ u.hold.state 3 = .clear ∧ (u.hold.slot 0).state = .aborting := by
  decide +kernel

/-! ### One step of each command: watch, capture and map -/

theorem test_setWatch_readWatch :
    (plant.ask (.setWatch 255)).wear.watched = none ∧
    (plant.ask .readWatch).replied = some (.ok, [17, 0]) := by decide +kernel

theorem test_armCapture_readCapture :
    (plant.ask (.armCapture 1 255)).wear.capture = .armed ⟨.due, none⟩ ∧
    (plant.ask (.armCapture 3 255)).replied = some (.badValue, []) ∧
    (plant.ask .readCapture).replied = some (.ok, [0]) := by decide +kernel

theorem test_setMask_setRoute :
    (stoppedPlant.ask (.setMask 7 0xFFFF)).routes.mask 7 = 0xFFFF ∧
    (stoppedPlant.ask (.setRoute 31 1 5 7 [239])).routes.route 31 = ⟨true, 5, 7, [239]⟩ ∧
    (plant.ask (.setMask 7 0)).replied = some (.wrongState, []) := by decide +kernel

theorem test_clearRoute_setCommonPath :
    ((stoppedPlant.ask (.setRoute 31 1 5 7 [239])).ask (.clearRoute 31)).routes.route 31 = .empty ∧
    (stoppedPlant.ask (.setCommonPath [17, 18])).routes.commonPath = [17, 18] ∧
    (stoppedPlant.ask (.setCommonPath [240])).replied = some (.badValue, []) := by decide +kernel

theorem test_readRoute_readRouteCounts :
    (plant.ask (.readRoute 0x40)).replied = some (.ok, [0]) ∧
    (plant.ask (.readRoute 0x42)).replied = some (.badValue, []) ∧
    (({ plant with wear := { plant.wear with counted := 3 } }).ask (.readRouteCounts 1)).wear.counted = 0 := by
  decide +kernel

theorem test_readTransport_readIntervalCounts :
    (plant.ask (.readTransport 3)).replied = some (.ok, [3, 0, 0, 0, 0, 0, 0, 0, 0, 0, 0, 2]) ∧
    (plant.ask (.readIntervalCounts 31 2)).replied = some (.badValue, []) := by decide +kernel

/-! ### One step of each command: holds, plan, checkpoint, alerts -/

theorem test_readHolds :
    (plant.ask .readHolds).replied.map (fun r => r.2.length) = some 54 ∧ (plant.ask .readHolds).freeCount = 4 := by
  decide +kernel

theorem test_abortHold :
    let u := (asked.after .lineTxSent).ask (.abortHold 0)
    u.replied = some (.ok, [0, 3, 3, 1]) ∧ u.hold.state 3 = .clear ∧
      (asked.ask (.abortHold 1)).replied = some (.notFound, []) := by decide +kernel

theorem test_releaseHold :
    let s := { plant with hold := plant.hold.setState 3 .held }
    (s.ask (.releaseHold 3)).replied = some (.ok, [3, 0, 1]) ∧
    (s.ask (.releaseHold 3)).hold.transmit = [.release 3] := by decide +kernel

theorem test_addWindow_removeWindow :
    (plant.ask (.addWindow 1000 15 32)).replied = some (.ok, [0]) ∧
    (plant.ask (.addWindow 985 15 32)).replied = some (.badValue, []) ∧
    (windowed.ask (.removeWindow 0)).replied = some (.ok, [0, 1]) := by decide +kernel

theorem test_pin_unpin :
    let s := plant.ask (.addWindow 1000 15 8)
    let u := s.ask (.pin 17 0)
    u.replied = some (.ok, [17, 0]) ∧ (u.plan.window 0).map Window.pinnedLoad = some 4 ∧
      (u.ask (.unpin 17)).plan.queue.map PlanEntry.element = [18] := by decide +kernel

/-- An UNKNOWN entry stands before one that is NOW. -/
def outOfOrder : PlanUnit :=
  { plant.plan with
    queue :=
      [⟨17, 1, .unknown, .horizon, none, false, true, 4⟩, ⟨18, 1, .now, .limit, none, false, false, 4⟩] }

/-- Without an entry a projection notice leaves even the order (R156). -/
theorem test_projection_notice :
    outOfOrder.projectionNotice (some 1000) 20 .never = outOfOrder ∧
    (outOfOrder.projectionNotice (some 1000) 17 .never).queue.map PlanEntry.element = [18, 17] := by decide +kernel

theorem test_replan_readPlan :
    (windowed.ask .replan).replied = some (.ok, [1, 1, 0, 0, 0]) ∧
    ((windowed.ask (.readPlan 0)).replied.map fun r => r.2.take 7) = some [0xE8, 3, 0, 0, 1, 0, 1] := by
  decide +kernel

theorem test_readWindows :
    (windowed.ask (.readWindows 0)).replied =
      some (.ok, [4, 1, 0x84, 3, 0, 0, 101, 0, 0xE9, 3, 0, 0, 8, 4, 0, 1, 0, 0, 0, 4]) := by decide +kernel

theorem test_save_readSaveStatus :
    (plant.ask .save).replied = some (.started, [1, 0, 0, 0]) ∧
    (writing17.ask .save).replied = some (.inProgress, [9, 0, 0, 0, 17]) ∧
    (due17.ask .readSaveStatus).replied = some (.ok, [1, 17, 0, 9, 0, 0, 0, 0, 0, 0, 0, 0]) := by decide +kernel

/-- READ SAVE STATUS stays in hand between a copy and its verification, and is then answered (R172). -/
theorem test_readSaveStatus_waits :
    let waiting := writing17.ask .readSaveStatus
    waiting.host.inHand = some ⟨0x39, .executing .readSaveStatus⟩ ∧
    (waiting.after .readSaveStatus).host = waiting.host ∧
    ((waiting.after (.checkpointRecordWritten .verified)).after .readSaveStatus).replied =
      some (.ok, [1, 18, 0, 9, 0, 0, 0, 0, 0, 0, 0, 0]) := by decide +kernel

theorem test_fetchAlerts_setNoticeMask :
    (plant.ask (.fetchAlerts 0x20000)).replied = some (.ok, [0, 0, 2, 0, 0, 0]) ∧
    (plant.ask (.fetchAlerts 0x20000)).alerts.latched = 0 ∧
    (plant.ask (.setNoticeMask 0x80000)).replied = some (.badValue, []) ∧
    (plant.ask (.setNoticeMask 1)).alerts.mask = 1 := by decide +kernel

/-! ### Values of the manual's examples -/

/-- 3.8: the keys of items A to D. -/
theorem test_keys :
    Item.key ⟨0, 517, 1, 100, false, false⟩ = 0x1205 ∧ Item.key ⟨0, 1500, 0, 100, false, true⟩ = 0x85DC ∧
    Item.key ⟨0, 3500, 2, 100, false, false⟩ = 0x2DAC ∧ Item.key ⟨0, 2100, 0, 100, true, false⟩ = 0x4834 := by
  decide +kernel

/-- 3.8: the map after its edits. -/
def bankMap : RouteMap :=
  { RouteMap.fresh with
    masks := #v[0, 0x7FFF, 0xBFFF, 0xF3FF, 0, 0, 0, 0]
    commonPath := [0, 1, 2]
    routes :=
      tset (tset (tset (tset (tset RouteMap.fresh.routes 0 ⟨true, 0x8000, 1, [20, 21, 20]⟩)
        1 ⟨true, 0x4000, 2, [30, 31]⟩) 2 ⟨true, 0x0000, 3, [40, 41, 42]⟩) 3 ⟨true, 0x0400, 3, [40, 43, 44]⟩)
        4 ⟨true, 0x0800, 3, [45, 46]⟩ }

theorem test_paths :
    bankMap.pathFor 0x1205 = [0, 1, 2, 40, 41, 42] ∧ bankMap.pathFor 0x85DC = [0, 1, 2, 20, 21, 20] ∧
    bankMap.pathFor 0x2DAC = [0, 1, 2] ∧ bankMap.pathFor 0x4834 = [0, 1, 2, 30, 31] := by decide +kernel

/-- R75. -/
theorem test_slip : slipPerMille 2500 2410 = 36 ∧ slipPerMille 2500 2430 = 28 ∧ slipPerMille 2500 0 = 1000 := by
  decide

/-- 7.8: an element due at 2,400,000 after the second roll, the third, and four stopped intervals. -/
def rollerAt (accumulator intervals : Nat) (history : List Nat) : Fitting :=
  { fittedAt 0 with
    settings := { someSettings with advisory := 2000000, due := 2400000, limit := 2600000 }
    state := .service
    accumulator := accumulator
    intervals := intervals
    history := history }

theorem test_projections :
    (rollerAt 1994000 2 [6200, 4800]).projected 15 (some 500030) = .minute 501138 ∧
    (rollerAt 2000000 3 [6000, 6200, 4800]).projected 15 (some 500045) = .minute 501104 ∧
    (rollerAt 2000000 7 [0, 0, 0, 0, 6000, 6200, 4800]).projected 15 (some 500105) = .minute 502576 := by
  decide +kernel

/-! ### Each statement's hypotheses, clause by clause -/

/-- The request stands in hand and may be executed. -/
def State.canServe (s : State) (i : Instr) : Bool := decide ((s.asking i).serving i (requestCode i))

def counting : State := { State.reset with engine := .counting }

def starting : State := { State.reset with engine := .starting }

def unpowered : State := { State.reset with powered := false }

def State.receiving (s : State) (rx : HostRx) : State := { s with host := { s.host with rx := rx } }

def State.lineReceiving (s : State) (rx : LineRx) : State := { s with line := { s.line with rx := rx } }

def idleReply : Reply := ⟨0x81, .ok, [], [], .nothing⟩

def State.holding (s : State) (h : InHand) : State := { s with host := { s.host with inHand := some h } }

theorem witness_steps :
    ({ State.reset with pending := [.status, .minuteTick] } : State).pending = .status :: [.minuteTick] ∧
    State.reset.pending = [] := ⟨rfl, rfl⟩

theorem witness_rows :
    (unpowered.powered = false ∧ Instr.minuteTick ≠ .powerOn) ∧
    (requestCommand .status ≠ none ∧ starting.powered = true ∧ starting.host.inHand = none ∧
      starting.engine = .starting) ∧
    (counting.powered = true ∧ counting.host.inHand = none ∧ counting.engine ≠ .starting) ∧
    (counting.holding ⟨0x01, .ready idleReply⟩).host.inHand = some ⟨0x01, .ready idleReply⟩ ∧
    ∀ code, (⟨0x01, .ready idleReply⟩ : InHand) ≠ ⟨code, .executing .status⟩ :=
  ⟨by decide, by decide, by decide, rfl, fun _ h => by cases h⟩

theorem witness_hostBytes :
    State.reset.host.rx = .hunting ∧ (0xA4 : Byte) ≠ 0xA5 ∧
    (State.reset.receiving .header).host.rx = .header ∧ (1 ≤ (1 : Byte).toNat ∧ (241 : Byte).toNat ≤ 241) ∧
    ((0 : Byte).toNat = 0 ∧ 242 ≤ (242 : Byte).toNat) ∧
    ((State.reset.receiving (.payload 2 [])).host.rx = .payload 2 [] ∧ ([] : List Byte).length + 1 ≠ 2) ∧
    ((State.reset.receiving (.payload 1 [])).host.rx = .payload 1 [] ∧ ([] : List Byte).length + 1 = 1) ∧
    (State.reset.receiving (.check [1] none)).host.rx = .check [1] none ∧
    (State.reset.receiving (.check [1] (some 2))).host.rx = .check [1] (some 2) ∧
    (List.replicate 241 (0 : Byte)).length ≤ 241 := by decide +kernel

theorem witness_framesTaken :
    let one := State.reset.host
    let two := { one with inHand := some ⟨0x01, .ready idleReply⟩ }
    let three := { two with held := some ⟨[1], 0⟩ }
    (one.inHand = none ∧ two.inHand ≠ none ∧ two.held = none ∧ three.held ≠ none ∧ three.busy.length < 4 ∧
      4 ≤ ({ three with busy := [1, 2, 3, 4] } : HostLink).busy.length) ∧
    hostCheck [0x01] ≠ 0 ∧ (0x81 : Byte).msb = true ∧ (0x7F : Byte).msb = false ∧
    decodeRequest ((0x0A : Byte).toNat % 64) [] = .unknownCommand ∧
    decodeRequest ((0x41 : Byte).toNat % 64) [0] = .badLength ∧
    decodeRequest ((0x41 : Byte).toNat % 64) [] = .request .status := by decide +kernel

theorem witness_payloads :
    (Instr.assignElement 255 someFields 4294967295).wf = true ∧
    requestCommand (.assignElement 255 someFields 4294967295) = some 0x10 ∧
    (State.reset.powered = true ∧ State.reset.engine ≠ .starting ∧ State.reset.host.rx = .hunting ∧
      State.reset.host.inHand = none) := by decide +kernel

theorem witness_transmitter :
    let busy := { State.reset with host := { State.reset.host with busy := [1] } }
    (State.reset.after .busyReplySent).host.tx ≠ none ∧ State.reset.host.tx = none ∧
    busy.host.busy = 1 :: [] ∧ State.reset.host.busy = [] ∧
    (State.reset.holding ⟨1, .ready idleReply⟩).host.inHand = some ⟨1, .ready idleReply⟩ ∧
    (17 < 19 ∧ State.reset.alerts.marks.getLsbD 17 = true ∧
      ∀ j < 17, State.reset.alerts.marks.getLsbD j = false) ∧
    plant.alerts.marks = 0 := by decide +kernel

theorem witness_framesSent :
    let replying := fun after : AfterReply =>
      { State.reset.holding ⟨1, .sending { idleReply with after := after }⟩ with
        host := { (State.reset.holding ⟨1, .sending { idleReply with after := after }⟩).host with
          tx := some .reply } }
    (replying .nothing).host.tx = some .reply ∧
    (replying .restart).host.inHand = some ⟨1, .sending { idleReply with after := .restart }⟩ ∧
    (replying .wipe).host.inHand = some ⟨1, .sending { idleReply with after := .wipe }⟩ ∧
    (replying .nothing).host.held = none ∧
    ({ (replying .nothing).host with held := some ⟨[1], 0⟩ } : HostLink).held = some ⟨[1], 0⟩ ∧
    ({ State.reset.host with tx := some (.busy 3) } : HostLink).tx = some (.busy 3) ∧
    (State.reset.after .noticeSent).host.tx = some (.notice 17 0 none) := by decide +kernel

theorem witness_framesSent_held :
    ((replying true).host.tx = some .reply ∧
      (replying true).host.inHand = some ⟨1, .sending ⟨0x81, .ok, [], [], .nothing⟩⟩ ∧
      (replying true).host.held = some ⟨[1], hostCheck [1]⟩) ∧
    (judge .counting ⟨[1], hostCheck [1]⟩ = ⟨1, .executing .status⟩ ∧
      judge .counting ⟨[1], 0⟩ = ⟨1, .ready ⟨0x80, .badCheck, [], [], .nothing⟩⟩) ∧
    ((replying true).schedule.prompts.headD false = true ∧
      (replying false).schedule.prompts.headD false = false) := by decide +kernel

/-- Every request can stand in hand. -/
theorem witness_serving :
    ([.status, .readOptions, .readWatch, .readCapture, .readSaveStatus, .readHolds, .start, .stop, .restart, .wipe,
      .clearCounts, .replan, .save].all plant.canServe) = true ∧
    ([.readElement 239, .readElement 240, .listElements 239 1 31, .listElements 0 0x7F 255, .listElements 0 0 0,
      .listElements 0 1 32, .listElements 240 1 0, .readRoute 31, .readRoute 0x40, .readRoute 0x41, .readRoute 32,
      .readTransport 31, .readTransport 32, .readIntervalCounts 31 1, .readIntervalCounts 24 8,
      .readIntervalCounts 25 8, .readIntervalCounts 0 0, .readIntervalCounts 0 9, .readIntervalCounts 32 1,
      .readPlan 63, .readPlan 64, .readWindows 7, .readWindows 8].all plant.canServe) = true ∧
    ([.setClock 4294967294, .setClock 4294967295, .setOptions defaultFields, .readRouteCounts 0,
      .readRouteCounts 1, .readRouteCounts 2, .assignElement 239 someFields 0, .assignElement 240 someFields 0,
      .replaceElement 239, .retireElement 240, .setThresholds 17 1 2 3, .setWeights 17 someWeights,
      .setWatch 239, .setWatch 240, .setWatch 255, .armCapture 2 239, .armCapture 3 0, .armCapture 0 240,
      .setMask 7 0, .setRoute 31 1 0 7 [239], .clearRoute 31, .setCommonPath [239], .waiveHold 17 1,
      .abortHold 3, .releaseHold 31, .addWindow 0 15 1, .removeWindow 7, .pin 239 7, .unpin 239,
      .fetchAlerts 0x7FFFF, .setNoticeMask 0x80000].all plant.canServe) = true := by decide +kernel

theorem witness_reads :
    (plant.wear.capture = .disarmed ∧ (plant.ask (.armCapture 1 255)).wear.capture = .armed ⟨.due, none⟩ ∧
      (∃ w : WearEngine, w.capture = .filled ⟨.due, none⟩ ⟨17, .limit, .item 7 517 1 101, .sort, none, 300⟩)) ∧
    (plant.ckpt.progress = .idle ∧ (plant.ask .save).ckpt.progress = .due 0 ∧ due17.ckpt.progress = .due (17 + 1) ∧
      writing17.ckpt.progress = .writing (.element 17 (stoppedPlant.elementCopy 17 9))) ∧
    ((plant.checkpointing .done).ckpt.progress = .done ∧ (plant.checkpointing .failed).ckpt.progress = .failed) ∧
    due17.canServe .readSaveStatus = true ∧ writing17.canServe .readSaveStatus = true :=
  ⟨⟨by decide +kernel, by decide +kernel, ⟨{ plant.wear with capture := .filled _ _ }, rfl⟩⟩, by decide +kernel,
    by decide +kernel, by decide +kernel, by decide +kernel⟩

theorem witness_pages :
    ((plant.element 239).position = .vacant ∧ (State.reset.setElement 5 ⟨0, .suspect⟩).canServe (.readElement 5) = true ∧
      (plant.element 17).position = .assigned (fittedAt 99)) ∧
    ((0x80 : BitVec 8).msb = true ∧ (0x7F : BitVec 8).msb = false ∧ (0x7F : BitVec 8) ≠ 0) ∧
    ([65, 66, 67, 68, 69, 70, 71, 72] : List Byte).length ≤ 8 := by decide +kernel

/-- The eighth match ends a page, before the last element and at it. -/
theorem test_pages :
    ((State.reset.ask (.listElements 231 1 255)).replied.map fun r => r.2) =
      some [8, 231, 0, 232, 0, 233, 0, 234, 0, 235, 0, 236, 0, 237, 0, 238, 0, 239] ∧
    ((State.reset.ask (.listElements 232 1 255)).replied.map fun r => r.2) =
      some [8, 232, 0, 233, 0, 234, 0, 235, 0, 236, 0, 237, 0, 238, 0, 239, 0, 255] := by decide +kernel

theorem witness_timers : 1 ≤ 1 ∧ (asked.after .lineTxSent).hold.slot 0 = ⟨.sent, some 3, .none, some 2000⟩ := by
  decide +kernel

theorem witness_clock :
    4294967294 < 4294967295 ∧ (plant.clock ≠ none ∧ plant.engine = .counting) ∧ counting.clock = none ∧
    (stoppedPlant.clock ≠ none ∧ stoppedPlant.engine ≠ .counting) := by decide +kernel

/-- Element 5 is SUSPECT. -/
def suspicious : State := State.reset.setElement 5 ⟨0, .suspect⟩

theorem witness_engine :
    plant.engine = .counting ∧ (suspicious.engine = .stopped ∧ suspicious.anySuspect = true) ∧
    (stoppedPlant.engine = .stopped ∧ stoppedPlant.anySuspect = false) ∧ plant.engine ≠ .stopped := by
  decide +kernel

theorem witness_options :
    let longer := { defaultFields with intervalLength := 60 }
    optionsOf? { defaultFields with autoSave := 2 } = none ∧
    (optionsOf? longer = some { Options.defaults with intervalLength := 60 } ∧ 60 ≠ plant.options.intervalLength ∧
      plant.engine ≠ .stopped ∧ stoppedPlant.engine = .stopped ∧ stoppedPlant.timer.boundary = none) ∧
    optionsOf? defaultFields = some Options.defaults ∧ ({ Options.defaults with deferral := 61 } : Options).ok = false ∧
    (stoppedPlant.atBoundary (some ⟨some 1000, .due⟩)).timer.boundary ≠ none ∧ stoppedPlant.timer.snapshot = false := by decide +kernel

theorem witness_assign :
    239 < 240 ∧ plant.fitting? 17 ≠ none ∧ (plant.fitting? 239 = none ∧ settingsOf? someFields = some someSettings) ∧
    settingsOf? { someFields with cost := 0 } = none ∧
    (someSettings.ok = true ∧ ({ someSettings with transport := 32 } : Settings).ok = false) ∧
    (someSettings.quota = 0 ∧ (settingsOf? { someFields with quota := 1 }).map Settings.quota = some 1 ∧
      99 < someSettings.advisory ∧ someSettings.advisory ≤ 100) ∧
    plant.wear.watched = some 17 ∧ plant.wear.watched ≠ some 239 := by decide +kernel

theorem witness_elements :
    plant.fitting? 17 = some (fittedAt 99) ∧ plant.fitting? 239 = none ∧
    (plant.element 239).position = .vacant ∧ (suspicious.element 5).position = .suspect ∧
    (plant.element 17).position = .assigned (fittedAt 99) ∧ (fittedAt 300).state = .limit ∧
    ((fittedAt 99).state ≠ .limit ∧ thresholdsOk 99 200 300 = true ∧ thresholdsOk 200 200 300 = false) ∧
    ({ fittedAt 0 with state := .breakIn } : Fitting).state = .breakIn ∧ 99 ≤ (fittedAt 99).accumulator := by
  decide +kernel

theorem witness_weights :
    weightsOf? { someWeights with cost := 9 } someSettings = none ∧
    (weightsOf? someWeights someSettings).map Settings.cost = some 2 ∧ 2 ≠ someSettings.cost ∧
    (weightsOf? { someWeights with cost := 4 } someSettings).map Settings.cost = some someSettings.cost := by
  decide +kernel

theorem witness_watch :
    (239 < 240 ∧ 240 ≠ 255) ∧ levelOf? 2 = some .limit ∧ 2 < 3 ∧ (239 < 240 ∧ 240 ≠ 255) := by decide

theorem witness_edits :
    plant.engine = .counting ∧ stoppedPlant.engine ≠ .counting ∧ 7 < 8 ∧ 31 < 32 ∧
    16 < (List.replicate 17 0).length ∧ (List.replicate 16 239).length ≤ 16 ∧
    (∀ i ∈ List.replicate 16 239, i ≤ 239) ∧ ∃ i ∈ [240], 239 < i := by decide

theorem witness_holds :
    (plant.fitting? 18 = some (fittedAt 300) ∧ (fittedAt 300).state = .limit) ∧
    (asked.hold.slot 0).state.asks = true ∧ (asked.hold.slot 0).transport = some 3 ∧
    (asked.hold.slot 1).state = .free ∧
    ((asked.ask (.abortHold 0)).hold.slot 0).state = .aborting ∧ 3 < 4 ∧ 31 < 32 ∧ 1 < 2 := by decide +kernel

theorem witness_waive_refused : ∀ f, plant.fitting? 17 = some f → f.state ≠ .limit := by
  intro f h
  rw [show plant.fitting? 17 = some (fittedAt 99) from by decide +kernel] at h
  cases h
  decide +kernel

/-- Every window slot is in use. -/
def full : State :=
  { plant with plan := { plant.plan with windows := Vector.replicate 8 (some ⟨1000, 15, 1, 0, 0⟩) } }

theorem witness_windows :
    State.reset.clock = none ∧ plant.clock = some 1000 ∧
    (14 < 15 ∧ 1440 < 1441 ∧ 0 < 1 ∧ 32 < 33 ∧ 4294967294 < 4294967280 + 15 ∧ 985 + 15 ≤ 1000) ∧
    (15 ≤ 15 ∧ 1440 ≤ 1440 ∧ 32 ≤ 32 ∧ 4294967279 + 15 ≤ 4294967294 ∧ 1000 < 986 + 15) ∧
    (∀ k < 8, full.plan.window k ≠ none) ∧
    (windowed.plan.window 1 = none ∧ ∀ j < 1, windowed.plan.window j ≠ none) ∧
    (windowed.plan.window 7 = none ∧ windowed.plan.window 0 = some ⟨900, 101, 8, 4, 0⟩) := by decide +kernel

/-- Element 17 is pinned to slot 0, which is then full; slot 1 has room. -/
def pinned : State :=
  { plant with
    plan :=
      { windows := tset (tset plant.plan.windows 0 (some ⟨1000, 15, 4, 4, 4⟩)) 1 (some ⟨1000, 15, 4, 0, 0⟩)
        queue := [⟨17, 1, .unknown, .horizon, some 0, true, false, 4⟩] } }

theorem witness_pins :
    (State.reset.clock = none ∧ plant.fitting? 239 = none ∧ plant.plan.window 0 = none) ∧
    (pinned.plan.pinnedEntry? 18 = none ∧ 4 < 4 + 4 ∧ pinned.plan.pinCount < 64 ∧ 0 + 4 ≤ 4) ∧
    pinned.plan.pinnedEntry? 17 = some ⟨17, 1, .unknown, .horizon, some 0, true, false, 4⟩ ∧
    pinned.plan.window 1 = some ⟨1000, 15, 4, 0, 0⟩ ∧ pinned.plan.window 0 = some ⟨1000, 15, 4, 4, 4⟩ := by
  decide +kernel

/-- 64 entries, of which the last alone is unpinned. -/
def crowded : PlanUnit :=
  ⟨tset plant.plan.windows 0 (some ⟨1000, 15, 32, 0, 0⟩),
    (List.range 64).map fun i => ⟨i, 1, .never, .horizon, some 0, i < 63, false, 0⟩⟩

theorem witness_pins_made :
    ((orderEntries 1000 pinned.plan.queue).find? (fun x => x.element == 17) ≠ none ∧
      (orderEntries 1000 pinned.plan.queue).find? (fun x => x.element == 18) = none ∧
      pinned.plan.queue.length < 64) ∧
    (64 ≤ crowded.queue.length ∧
      ((orderEntries 1000 (orderEntries 1000 crowded.queue)).reverse.find? fun x => !x.pinned) ≠ none ∧
      (orderEntries 1000 crowded.queue).find? (fun x => x.element == 64) = none) ∧
    (windowed.plan.window 0 = some ⟨900, 101, 8, 4, 0⟩ ∧ 8 - 4 < 5 ∧ 4 ≤ 8 - 4) := by decide +kernel

/-- 64 entries are pinned. -/
theorem witness_pins_full :
    64 ≤ PlanUnit.pinCount ⟨Vector.replicate 8 none,
      (List.range 64).map fun i => ⟨i, 1, .unknown, .horizon, some 0, true, false, 1⟩⟩ := by decide +kernel

theorem witness_placement :
    let e : PlanEntry := ⟨18, 1, .now, .limit, none, false, false, 4⟩
    (tget windowed.plan.windows 0 none = some ⟨900, 101, 8, 4, 0⟩ ∧ Window.takes 1000 e ⟨900, 101, 8, 4, 0⟩ = true ∧
      Window.takes 1001 e ⟨900, 101, 8, 4, 0⟩ = false ∧
      Window.takes 1000 e ⟨900, 101, 8, 5, 0⟩ = false) ∧
    (e.pinned = false ∧ e.due ≠ .unknown) ∧ State.reset.clock = none := by decide +kernel

theorem witness_order :
    let at_ := fun due : Projection => (⟨17, 1, due, .horizon, none, false, false, 4⟩ : PlanEntry)
    (at_ .now).before 1000 (at_ (.minute 1001)) = true ∧ (at_ (.minute 1001)).before 1000 (at_ .now) = false ∧
    (at_ .never).before 1000 (at_ .unknown) = true ∧ (at_ (.minute 9)).before 1000 (at_ .never) = true ∧
    (at_ .never).before 1000 { at_ .never with element := 18 } = true := by decide

/-- Element 19, in SERVICE at 60 of 200, is of the group of 17 and 18; slot 0 has a window with room. -/
def companied : State :=
  { (plant.withFitted [(19, fittedAt 60)]) with
    options := { Options.defaults with companionPercent := 30 }
    plan := { plant.plan with windows := tset plant.plan.windows 0 (some ⟨1000, 15, 12, 0, 0⟩) } }

/-- A replan places element 18, and pulls in its companions 17 and 19. -/
theorem test_companions :
    companied.replan.plan.queue.map (fun e => (e.element, e.window, e.reason)) =
      [(18, some 0, .limit), (17, some 0, .companion), (19, some 0, .companion)] := by decide +kernel

theorem witness_replan :
    companied.clock = some 1000 ∧
    (∃ e, pinned.plan.queue = [e] ∧ e.pinned = true ∧ e.window = some 0) ∧
    (∃ e, windowed.plan.queue = [e] ∧ e.pinned = false ∧ e.window = some 0) ∧
    (companied.element 19).position = .assigned (fittedAt 60) ∧
    (companied.plan.queue.all (fun q => q.element != 19) = true ∧ (fittedAt 60).state = .service ∧
      30 * 200 ≤ 100 * 60 ∧ 4 ≤ 12 - 0 ∧ companied.plan.queue.length < 64) ∧
    100 * 60 < 75 * 200 ∧ (fittedAt 60).settings.group = some 5 :=
  ⟨by decide +kernel, ⟨_, rfl, rfl, rfl⟩, ⟨_, rfl, rfl, rfl⟩, by decide +kernel, by decide +kernel, by decide,
    by decide +kernel⟩

theorem witness_notices :
    let entry : PlanEntry := ⟨64, 1, .now, .due, none, false, false, 4⟩
    let last : PlanEntry := ⟨63, 1, .never, .horizon, some 0, false, false, 0⟩
    (outOfOrder.queue.find? (fun e => e.element == 17) ≠ none ∧
      outOfOrder.queue.find? (fun e => e.element == 20) = none ∧ outOfOrder.queue.length < 64) ∧
    (crowded.queue.find? (fun e => e.element == 64) = none ∧ 64 ≤ crowded.queue.length ∧
      (orderEntries 1000 crowded.queue).reverse.find? (fun e => !e.pinned) = some last ∧
      entry.before 1000 last = true ∧ ({ entry with due := .unknown } : PlanEntry).before 1000 last = false) ∧
    (windowed.plan.queue.find? (fun e => e.element == 18) = some ⟨18, 1, .now, .limit, some 0, false, false, 4⟩ ∧
      windowed.plan.window 0 = some ⟨900, 101, 8, 4, 0⟩ ∧ 4 - 4 + 8 ≤ 8 ∧ 8 < 4 - 4 + 9) ∧
    outOfOrder.queue.find? (fun e => e.element == 18) = some ⟨18, 1, .now, .limit, none, false, false, 4⟩ := by
  decide +kernel

theorem witness_save :
    (plant.ckpt.progress = .idle ∧ plant.canServe .save = true) ∧
    ((plant.ask .save).ckpt.progress = .due 0 ∧ due17.ckpt.progress = .due (17 + 1)) ∧
    ((plant.checkpointing (.writing (plant.recordAt 0))).ckpt.progress = .writing (.header (plant.headerCopy 0)) ∧
      writing17.ckpt.progress = .writing (.element 17 (stoppedPlant.elementCopy 17 9)) ∧
      writing17.canServe .save = true) := by decide +kernel

theorem witness_records :
    let last := RecordCopy.element 239 (stoppedPlant.elementCopy 239 9)
    (writing17.powered = true ∧
      writing17.ckpt.progress = .writing (.element 17 (stoppedPlant.elementCopy 17 9))) ∧
    (due17.powered = true ∧ due17.ckpt.progress = .due 18 ∧ due17.cut = none ∧ (due17.cutting [some 0]).cut ≠ none) ∧
    (plant.powered = true ∧ plant.ckpt.progress = .idle) ∧
    (17 + 1 < 240 ∧ 240 ≤ last.place) ∧
    ({ writing17.ckpt with pending := true } : CheckpointUnit).pending = true ∧ writing17.ckpt.pending = false ∧
    (some last.slotNumber = some 239 ∧ WriteResult.leftOld ≠ .verified) := by decide +kernel

theorem witness_masks :
    (19 ≤ 31 ∧ (0x80000000 : BitVec 32).getLsbD 31 = true) ∧ maskOk 0x7FFFF = true ∧ maskOk 0x80000 = false := by
  decide +kernel

theorem witness_power :
    (plant.powered = true ∧ plant.ckpt.erasing = false) ∧
    ((stoppedPlant.ask .wipe).after .hostReplySent).ckpt.erasing = true ∧
    plant.ckpt.progress = .idle ∧ due17.ckpt.progress = .due 18 ∧
    writing17.ckpt.progress = .writing (.element 17 (stoppedPlant.elementCopy 17 9)) := by decide +kernel

theorem witness_not_writing : ∀ copy, plant.ckpt.progress ≠ .writing copy := by
  intro copy h
  rw [show plant.ckpt.progress = .idle from by decide +kernel] at h
  cases h

/-- A store with a valid header of COUNTING, element 17's record, one that fails its checks, and one torn slot. -/
def someStore : Store :=
  { header := .written { stoppedPlant.headerCopy 9 with engine := .counting }
    elements :=
      tset (tset (tset Store.erased.elements 17 (.written (stoppedPlant.elementCopy 17 9)))
        5 (.written (stoppedPlant.elementCopy 17 9))) 6 .torn }

theorem witness_store :
    (ElementRecord.ok 17 (stoppedPlant.elementCopy 17 9) = true ∧
      ElementRecord.ok 5 (stoppedPlant.elementCopy 17 9) = false ∧
      ElementRecord.ok 17 ⟨17, 3, .vacant, 9⟩ = true ∧ ElementRecord.ok 17 ⟨17, 3, .suspect, 9⟩ = true) ∧
    (stoppedPlant.elementCopy 17 9).position = .assigned (fittedAt 99).toAccount ∧
    (someStore.element 17 = .written (stoppedPlant.elementCopy 17 9) ∧ someStore.element 6 = .torn ∧
      someStore.element 0 = .blank) ∧
    someStore.checkedHeader = .written { stoppedPlant.headerCopy 9 with engine := .counting } ∧
    ({ someStore with header := .torn } : Store).checkedHeader = .torn ∧
    (({ someStore with header := .blank } : Store).checkedHeader = .blank ∧
      someStore.element 6 ≠ .blank ∧ ∀ i < 240, Store.erased.element i = .blank) := by decide +kernel

theorem witness_validity :
    (∃ r : ElementRecord, r.position = .vacant) ∧ Store.erased.header = .blank ∧
    ({ Store.erased with header := .torn } : Store).header = .torn ∧
    (stoppedPlant.headerCopy 9).ok = true ∧
    ({ stoppedPlant.headerCopy 9 with engine := .starting } : HeaderRecord).ok = false ∧
    ({ stoppedPlant.headerCopy 9 with commonPath := [240] } : HeaderRecord).ok = false ∧
    ({ stoppedPlant.headerCopy 9 with routes := Vector.replicate 32 ⟨false, 0, 8, []⟩ } : HeaderRecord).ok = false :=
  ⟨⟨⟨0, 0, .vacant, 0⟩, rfl⟩, by decide +kernel⟩

theorem witness_restore :
    ((∀ i < 240, (tget Store.erased.restored i .vacant).isSuspect = false) ∧
      (tget someStore.restored 5 .vacant).isSuspect = true ∧
      ∀ j < 5, (tget someStore.restored j .vacant).isSuspect = false) ∧
    Store.staleCount { someStore with header := .written (stoppedPlant.headerCopy 8) } = 1 ∧
    someStore.staleCount = 0 ∧
    ((writing17.after .powerOn).ckpt.restored = false ∧ starting.ckpt.restored = true) ∧
    (starting.cut = none ∧ (starting.cutting [some 0]).cut ≠ none) := by decide +kernel

theorem witness_startupEnd :
    (starting.powered = true ∧ starting.engine = .starting ∧ starting.ckpt.erasing = false) ∧
    ((stoppedPlant.ask .wipe).after .hostReplySent).engine = .starting := by decide +kernel

theorem witness_line :
    State.reset.line.rx = .hunting ∧ (0x5B : Byte) ≠ 0x5A ∧
    (State.reset.lineReceiving (.header none)).line.rx = .header none ∧
    (State.reset.lineReceiving (.header (some 0x11))).line.rx = .header (some 0x11) ∧
    ((State.reset.lineReceiving (.payload 0x12 1 [])).line.rx = .payload 0x12 1 [] ∧
      ([] : List Byte).length + 1 = 1) ∧
    ((State.reset.lineReceiving (.payload 0x14 2 [])).line.rx = .payload 0x14 2 [] ∧
      ([] : List Byte).length + 1 ≠ 2) ∧
    (State.reset.lineReceiving (.check 0x12 [1] none)).line.rx = .check 0x12 [1] none ∧
    (State.reset.lineReceiving (.check 0x12 [1] (some 0))).line.rx = .check 0x12 [1] (some 0) ∧
    (List.replicate 255 (0 : Byte)).length ≤ 255 := by decide +kernel

theorem witness_judged :
    RawRecord.judged ⟨0x11, itemBytes, lineCheck 0x11 itemBytes⟩ = some (.queued (.item lineItem)) ∧
    RawRecord.judged ⟨0x11, itemBytes, lineCheck 0x11 itemBytes + 1⟩ = none ∧
    RawRecord.judged ⟨0x12, [4], lineCheck 0x12 [4]⟩ = some (.queued (.mode .purge)) ∧
    RawRecord.judged ⟨0x13, [31, 0, 0, 0, 0, 1], lineCheck 0x13 [31, 0, 0, 0, 0, 1]⟩ =
      some (.queued (.tach 31 0 0 true)) ∧
    RawRecord.judged ⟨0x14, [31, 3], lineCheck 0x14 [31, 3]⟩ = some (.queued (.jam 31 3)) ∧
    RawRecord.judged ⟨0x15, [3, 31, 2], lineCheck 0x15 [3, 31, 2]⟩ = some (.answer 3 31 false) ∧
    RawRecord.judged ⟨0x21, [0, 3], lineCheck 0x21 [0, 3]⟩ = none := by decide +kernel

/-- The intake is full but for 8 bytes. -/
def nearlyFull : State := plant.intaking (List.replicate 170 (.item lineItem))

theorem witness_passedOn :
    starting.engine = .starting ∧ plant.engine ≠ .starting ∧
    (nearlyFull.line.used + 8 ≤ 2048 ∧ 2048 < nearlyFull.line.used + 12 ∧ nearlyFull.line.used = 2040) ∧
    (((asked.after .lineTxSent).hold.slot 0).timer ≠ none ∧
      ((asked.after .lineTxSent).hold.slot 0).transport = some 3 ∧
      ((asked.after .lineTxSent).hold.slot 0).state = .sent) ∧
    (((asked.after .lineTxSent).ask (.abortHold 0)).hold.slot 0).state = .aborting ∧
    (((asked.after .lineTxSent).ask (.abortHold 0)).hold.slot 0).timer ≠ none ∧
    (plant.hold.slot 0).timer = none := by decide +kernel

theorem witness_taken :
    (plant.intaking [.mode .idle]).line.intake = .mode .idle :: [] ∧
    (plant.intaking [.tach 3 1 1 true]).line.intake = .tach 3 1 1 true :: [] ∧
    (stoppedPlant.intaking [.item lineItem]).line.intake = .item lineItem :: [] ∧
    (stoppedPlant.engine = .stopped ∧ plant.engine = .counting) ∧
    (plant.intaking [.jam 3 1]).line.intake = .jam 3 1 :: [] ∧ plant.line.intake = [] := by decide +kernel

theorem witness_taken_states :
    starting.engine = .starting ∧ plant.wear.work = none ∧ plant.powered = true := by decide +kernel

theorem witness_workInParts :
    ((plant.atBoundary (some ⟨none, .rolling 3⟩)).timer.rolls = true ∧ plant.timer.rolls = false) ∧
    (itemCut.wear.work = some (.item lineItem [17] [3]) ∧ itemCut.engine ≠ .starting ∧ 1 ≤ [17].length ∧
      [17].length < 2) ∧
    (jamCut.wear.work = some (.jam 3 1 18 true) ∧ 18 + 221 < 240 ∧ 240 ≤ 18 + 222) ∧
    (runsCut.timer.running = true ∧ runsCut.timer.runs = some ⟨some 1001, 18⟩ ∧ plant.timer.runs = none) ∧
    (plant.takesJam 3 17 = true ∧ plant.takesJam 4 17 = false) ∧
    (itemCut.atBoundary (some ⟨none, .waits⟩)).timer.boundary = some ⟨none, .waits⟩ := by decide +kernel

theorem witness_counted :
    (bankMap.routeMatches 0x1205 (bankMap.route 2) = true ∧
      ∀ j < 2, bankMap.routeMatches 0x1205 (bankMap.route j) = false) ∧
    ∀ k < 32, bankMap.routeMatches 0x2DAC (bankMap.route k) = false := by decide +kernel

theorem witness_charges :
    (plant.fitting? 239 = none ∧ plant.fitting? 17 = some (fittedAt 99)) ∧
    (LineMode.counts .sort someSettings.modeSet = true ∧ LineMode.counts .idle someSettings.modeSet = false) ∧
    ({ State.reset with
        transports := tset State.reset.transports 3 { Transport.fresh with running := true } } : State).transport 3 =
      { Transport.fresh with running := true } ∧
    (plant.transport 3).running = false ∧ (fittedAt 99).runMinutes ≤ 4294967295 ∧ 4 ≠ someSettings.transport := by
  decide +kernel

def bedding : Fitting := { fittedAt 99 with state := .breakIn }

theorem witness_evaluations :
    (bedding.state = .breakIn ∧ bedding.accumulator < bedding.settings.advisory ∧
      ({ bedding with accumulator := 100 } : Fitting).settings.advisory ≤ 100) ∧
    (fittedAt 99).state ≠ .breakIn ∧ Trigger.matches ⟨.due, some 17⟩ 17 .due = true ∧
    Trigger.matches ⟨.due, some 17⟩ 17 .advised = false ∧ Trigger.matches ⟨.due, some 17⟩ 18 .limit = false ∧
    AssignedState.reason? .limit = some .limit := by decide +kernel

theorem witness_afterCharge :
    (bedding.breakInRemaining = 0 ∧ { bedding with breakInRemaining := 2 }.breakInRemaining = 2) ∧
    (fittedAt 99).milestones.reported .advised = false ∧ (fittedAt 100).milestones.reported .advised = true ∧
    ((bedding.evaluate true 15 none).fitting.state = .service ∧ (bedding.evaluate true 15 none).moved = false ∧
      (bedding.evaluate false 15 none).fitting.state = .breakIn) := by decide +kernel

theorem witness_handedOn :
    ((({ fittedAt 99 with accumulator := 300 } : Fitting).evaluate true 15 none).moved = true ∧
      (({ fittedAt 99 with accumulator := 300 } : Fitting).evaluate true 15 none).fitting.state = .limit) ∧
    (((fittedAt 99).evaluate true 15 none).moved = false ∧
      ((fittedAt 99).evaluate true 15 none).projectionMoved = false ∧
      ({ fittedAt 99 with projection := .never }.settle false true 15 none).projectionMoved = true) ∧
    (plant.wish 3 = true ∧ plant.wish 4 = false) := by decide +kernel

theorem witness_not_armed : ∀ t, Capture.disarmed ≠ .armed t := fun _ h => by cases h

theorem witness_thresholds :
    (100 < 200 ∧ 200 < 300) ∧ 99 < 100 ∧ (100 ≤ 100 ∧ 199 < 200) ∧ (200 ≤ 200 ∧ 299 < 300) ∧ 300 ≤ 300 := by
  decide

theorem witness_factors :
    (4095 ≤ 4095 ∧ 3 ≤ 3 ∧ 40 ≤ 40 ∧ 600 ≤ 600) ∧
    lengthFactor .belt 40 = 1 ∧ lengthFactor .belt 101 = 2 ∧ lengthFactor .belt 600 = 6 ∧
    (someSettings.kind = .belt ∧ (plant.transport 3).slip = .clear) := by decide +kernel

theorem witness_samples :
    (0 < 5 ∧ 6 * 5 < 5 * 7) ∧ (5 * 6 ≤ 6 * 5 ∧ 5 < 100) ∧ (5 * 99 ≤ 6 * 100 ∧ 100 ≤ 100 ∧ 99 < 100) ∧
    (5 * 120 ≤ 6 * 100 ∧ 100 ≤ 120) ∧
    (6 ≤ [false, false, false, false, false, false].count false ∧
      [true, false, false, false, false, false].count false < 6) ∧
    (32 ≤ 31 + 1 ∧ 30 + 1 < 32) ∧ (30 < 31 ∧ 4 ≤ 3 + 1 ∧ 2 + 1 < 4 ∧ 30 ≤ 30 ∧ 8 ≤ 7 + 1 ∧ 6 + 1 < 8) := by decide

theorem witness_projection :
    let f := rollerAt 1994000 2 [6200, 4800]
    (fittedAt 200).state = .due ∧ (fittedAt 99).state ≠ .due ∧ (fittedAt 99).intervals < 2 ∧
    (2 ≤ f.intervals ∧ (f.history.take 2).sum = 11000 ∧ 406000 * 2 * 15 ≤ 1108 * 11000 ∧
      1108 * 11000 < 406000 * 2 * 15 + 11000 ∧ 500030 + 1108 ≤ 4294967294 ∧ 4294967294 < 4294967294 + 1) ∧
    ((rollerAt 0 2 [0, 0]).history.take 2).sum = 0 := by decide +kernel

theorem witness_ticks :
    starting.powered = true ∧ (plant.timer.running = true ∧ plant.timer.holdTick = false ∧
      plant.timer.planTick = none ∧ plant.timer.boundary = none) ∧
    ({ plant with timer := { plant.timer with running := false } } : State).timer.running = false ∧
    plant.engine = .counting ∧ stoppedPlant.engine ≠ .counting := by decide +kernel

theorem witness_tick_rest :
    (plant.timer.runs = none ∧ plant.timer.snapshot = false) ∧
    ({ plant with clock := some maxMinute } : State).clock = some 4294967294 ∧
    (∃ k < 8, ∃ w, windowed.plan.window k = some w ∧ w.start + w.length ≤ 1001) ∧
    (∀ k < 8, plant.plan.window k = none) ∧ (ending.after .minuteTick).timer.holdTick = true := by
  refine ⟨by decide +kernel, by decide +kernel, ⟨0, by decide, ⟨900, 101, 8, 4, 0⟩, ?_, by decide⟩, ?_, ?_⟩ <;>
    decide +kernel

/-- What may stand outstanding at a tick; the first state is built, for no run leaves a tick without a minute there. -/
theorem witness_tick_left :
    ({ plant with timer := { plant.timer with planTick := some none } } : State).timer.planTick = some none ∧
    (windowed.after .minuteTick).timer.planTick = some (some 1001) ∧ plant.timer.planTick = none ∧
    (plant.timer.holdTick = false ∧ (ending.after .minuteTick).timer.holdTick = true) := by decide +kernel

/-- A tick with the last one's delivery outstanding does that first. -/
theorem test_tick_finishes_last :
    let u := (ending.after .minuteTick).after .minuteTick
    u.hold.state 3 = .asking ∧ u.clock = some 1002 ∧ u.timer.holdTick = false := by decide +kernel

theorem witness_tick_clock : ∀ c, plant.clock = some c → c ≤ 4294967294 := by
  intro c h
  rw [show plant.clock = some 1000 from by decide +kernel] at h
  cases h
  decide

theorem witness_deliveries :
    (ending.after .minuteTick).timer.holdTick = true ∧
    (windowed.after .minuteTick).timer.planTick = some (some 1001) ∧
    (plant.atBoundary none).timer.boundary = none ∧ plant.timer.snapshot = false ∧
    (({ plant with timer := { plant.timer with intervalCount := 14 } } : State).after .minuteTick).timer.snapshot = true ∧
    ((plant.cutting []).cut = none ∧ (plant.cutting [some 0]).cut = some 0 ∧ (plant.cutting [some 9]).cut = some (8 + 1)) ∧
    ((plant.atBoundary (some ⟨some 1000, .due⟩)).recordCharged = false ∧
      (itemCut.atBoundary (some ⟨some 1000, .waits⟩)).recordCharged = true ∧ jamCut.recordCharged = true) ∧
    (plant.atBoundary (some ⟨none, .rolling 239⟩)).timer.boundary = some ⟨none, .rolling 239⟩ ∧
    (238 + 1 < 240 ∧ 240 ≤ 239 + 1 ∧ 17 ≤ 17 ∧ 17 < 17 + 1) ∧
    (plant.engine = .counting ∧ plant.options.autoSave = true) ∧ stoppedPlant.engine ≠ .counting := by
  decide +kernel

theorem witness_holdTick :
    ending.hold.state 3 = .deferred 1 ∧ (plant.hold.setState 3 (.deferred 60)).state 3 = .deferred (58 + 2) ∧
    ending.wish 3 = true ∧ plant.hold.state 4 = .clear := by decide +kernel

theorem witness_reevaluated :
    let aborting := ((asked.after .lineTxSent).ask (.abortHold 0)).hold
    let late := (asked.ask (.abortHold 0)).hold
    let released := plant.hold.join (.release 3)
    let queued := (released.join (.release 4)).join (.request 1 5)
    (plant.hold.state 3 = .clear ∧ asked.hold.state 3 ≠ .clear) ∧
    ((aborting.slot 0).state = .aborting ∧ (aborting.slot 0).transport = some 3 ∧ aborting.state 3 = .clear ∧
      (aborting.slot 0).timer = some 2000 ∧ (late.slot 0).timer = none) ∧
    ((∀ k < 4, (plant.hold.slot k).state ≠ .aborting) ∧ .release 4 ∈ queued.transmit ∧
      queued.transmit.head? = some (.release 3) ∧ queued.sending = true ∧ .release 3 ∉ plant.hold.transmit) ∧
    ((plant.hold.setState 3 .waiting).state 3 = .waiting ∧ ending.hold.state 3 = .deferred 1 ∧
      (plant.hold.setState 3 .held).state 3 = .held) ∧
    (asked.hold.state 3 = .asking ∧ (asked.hold.slot 0).state.asks = true ∧
      (asked.hold.slot 0).transport = some 3) ∧
    ((asked.hold.slot 0).state = .pending ∧ .request 0 3 ∈ asked.hold.transmit ∧ asked.hold.sending = true ∧
      asked.hold.transmit.head? = some (.request 0 3) ∧ .request 1 5 ∈ queued.transmit ∧
      ((asked.after .lineTxSent).hold.slot 0).state = .sent) := by decide +kernel

theorem witness_arbiter :
    let two := { plant.hold with waiting := [3, 9] }
    (two.waiting = 3 :: [9] ∧ (two.slot 0).state = .free) ∧ (two.arbiter true).waiting = [] ∧
    (two.arbiter true).transmit = [.request 0 3, .request 1 9] ∧ plant.hold.waiting = [] := by decide +kernel

theorem witness_holdEvents :
    let released := plant.hold.join (.release 3)
    let late := (asked.ask (.abortHold 0)).hold
    plant.hold.sending = false ∧ (released.sending = true ∧ released.transmit = .release 3 :: []) ∧
    (asked.hold.sending = true ∧ asked.hold.transmit = .request 0 3 :: [] ∧
      (asked.hold.slot 0).state = .pending) ∧
    (late.sending = true ∧ late.transmit = .request 0 3 :: [] ∧ (late.slot 0).state = .aborting ∧
      (late.slot 0).timer = none) ∧
    (plant.hold.slot 3).timer = none ∧ ((asked.after .lineTxSent).hold.slot 0).timer ≠ none ∧
    ((asked.after .lineTxSent).hold.slot 0).state = .sent := by decide +kernel

/-! ### A lawful state that steps -/

/-- Counting with a request sent, work planned in a window, and an item waiting. -/
def busyPart : State :=
  { ({ windowed with hold := (asked.after .lineTxSent).hold }).intaking [.item lineItem] with
    wear := { windowed.wear with received := 1 }
    pending := [.takeRecord] }

theorem test_busyPart_elements : busyPart.elementsLawful := (elementsLawful_iff _).2 (by decide +kernel)

theorem test_busyPart_holds : busyPart.hold.lawful ∧ busyPart.hold.transmits :=
  ⟨(hold_lawful_iff _).2
      ⟨by decide +kernel, by decide +kernel, by decide +kernel, by decide +kernel, by decide +kernel,
        by decide +kernel⟩,
    show busyPart.hold.sending = true ↔ busyPart.hold.transmit ≠ [] from by decide +kernel⟩

theorem test_busyPart_plan : busyPart.planLawful :=
  (planLawful_iff _).2 ⟨by decide +kernel, (loadsLawful_iff _).2 (by decide +kernel), by decide +kernel⟩

theorem test_busyPart_others :
    busyPart.transportsLawful ∧ busyPart.limitsKept ∧ busyPart.itemsBalance ∧ busyPart.conditionsLatched := by
  refine ⟨fun t => ?_, ?_, ?_, ?_⟩
  · have : busyPart.transport t = Transport.fresh := by
      have h : busyPart.transports = Vector.replicate 32 .fresh := by decide +kernel
      rw [State.transport, h, tget_replicate]
      split <;> rfl
    rw [this]
    exact fresh_transport_lawful
  · show busyPart.line.used ≤ 2048 ∧ busyPart.wear.ring.length ≤ 16 ∧ busyPart.host.busy.length ≤ 4
    decide +kernel
  · show busyPart.wear.received = busyPart.wear.counted + busyPart.wear.notCounted + busyPart.wear.lost +
      BitVec.ofNat 32 busyPart.line.items ∧ busyPart.wear.counted = busyPart.routes.matched + busyPart.routes.unrouted
    decide +kernel
  · show busyPart.conditionBits &&& ~~~busyPart.alerts.latched = 0
    decide +kernel

theorem test_busyPart_steps : ∃ t, step busyPart = .next t ∧ t.wear.counted = 1 := by
  refine ⟨landed (step busyPart), ?_, by decide +kernel⟩
  rfl

end Tests

end Sys2Proof.Machine
end

section
/-! SUPPORT. What a step can do to a property of the part, for every property: the host link's share of each row, the
end of a reply, and the front of the queue (R182 to R184; notes/assumptions/2.md, 9.md, 10.md). -/

namespace Sys2Proof.Machine

/-- Whatever part the outcome is, it has the property. -/
def Lands (P : State → Prop) (o : Host.Outcome State Fault Refusal) : Prop := ∀ t, o = .next t → P t

theorem lands_next {P : State → Prop} {s : State} : Lands P (.next s) ↔ P s :=
  ⟨fun h => h s rfl, fun h t ht => by cases ht; exact h⟩

/-- A property that the host link's share of a row keeps: the transmitter's choice, a reply made ready, and a frame that
completes behind the request in hand. -/
structure KeptByHost (P : State → Prop) : Prop where
  chosen : ∀ s, P s → P s.arbitrate
  inHand : ∀ s h, P s → P (s.setInHand h)
  frame : ∀ s f, P s → P { s with host := s.host.complete s.engine f }

variable {P : State → Prop} {s : State}

theorem act_lands (h : KeptByHost P) {f : State → State} (hs : P s) (hf : P (f s)) : Lands P (s.act f) := by
  rw [State.act, lands_next]
  split
  · exact h.chosen _ hf
  · exact hs

theorem serveBy_keeps (h : KeptByHost P) {i : Instr} {execute : Byte → State} (hs : P s)
    (he : ∀ code, P (execute code)) : P (s.serveBy i execute) := by
  unfold State.serveBy
  split
  · split
    · exact he _
    · exact h.frame _ _ hs
  · exact h.frame _ _ hs
  · split
    · exact h.inHand _ _ hs
    · exact he _

theorem serve_keeps (h : KeptByHost P) {i : Instr} {work : State → Answer} (hs : P s) (hw : P (work s).state) :
    P (s.serve i work) :=
  serveBy_keeps h hs fun _ => h.inHand _ _ hw

theorem await_keeps (h : KeptByHost P) {i : Instr} (hs : P s) : P (s.await i) :=
  serveBy_keeps h hs fun _ => h.inHand _ _ hs

theorem request_lands (h : KeptByHost P) {i : Instr} {work : State → Answer} (hs : P s) (hw : P (work s).state) :
    Lands P (s.request i work) :=
  act_lands h hs (serve_keeps h hs hw)

theorem execReadSaveStatus_lands (h : KeptByHost P) (hs : P s) : Lands P (execReadSaveStatus s) := by
  refine act_lands h hs ?_
  split
  · exact await_keeps h hs
  · exact serve_keeps h hs hs

/-- What the end of a reply dispatches is a host request. -/
theorem dispatchedNext_request {s : State} {i : Instr} (h : s.dispatchedNext = some i) : requestCommand i ≠ none := by
  unfold State.dispatchedNext at h
  split at h
  · split at h
    · rename_i code j _ hj
      cases h
      simp only [HostLink.finish, Option.map_eq_some_iff] at hj
      obtain ⟨f, -, hf⟩ := hj
      exact judge_request hf
    · cases h
  · cases h

/-- The end of a reply, and a held request executed before the transmitter's choice. -/
theorem execHostReplySent_lands (h : KeptByHost P) (prompted : ∀ s, P s → P s.promptTaken)
    (sent : ∀ s, P s → P s.replySent) (requests : ∀ i s, requestCommand i ≠ none → P s → Lands P (exec i s))
    (hs : P s) : Lands P (execHostReplySent s) := by
  unfold execHostReplySent
  split
  · rename_i i hi
    split
    · rw [execRequest_eq (dispatchedNext_request hi)]
      exact requests _ _ (dispatchedNext_request hi) (sent _ (prompted _ hs))
    · exact act_lands h hs (sent _ (prompted _ hs))
  · exact act_lands h hs (sent _ hs)

/-- A step keeps what every row and the queue keep. -/
theorem step_keeps (queue : ∀ (s : State) q, P s → P { s with pending := q })
    (rows : ∀ i s, P s → Lands P (exec i s)) (hs : P s) : Lands P (step s) := by
  unfold step
  split
  · exact lands_next.2 hs
  · exact rows _ _ (queue _ _ hs)

end Sys2Proof.Machine
end

section
/-! SUPPORT. Which values pass R2, and that each operation on a fitted element's record keeps the settings and the state
that R5 requires (R2, R5, R6, R8, R13, R15, R19, R21, R130, R135, R165, R173). -/

namespace Sys2Proof.Machine

/-! ### Values (R2) -/

theorem thresholdsOk_iff {advisory due limit : Nat} :
    thresholdsOk advisory due limit = true ↔
      1 ≤ advisory ∧ advisory < due ∧ due < limit ∧ limit ≤ 4000000000 := by
  simp [thresholdsOk, and_assoc]

theorem labelOk_iff {l : List Byte} :
    labelOk l = true ↔ l.length ≤ 8 ∧ ∀ c ∈ l, 32 ≤ c.toNat ∧ c.toNat ≤ 126 := by
  simp [labelOk]

/-- The settings that pass R2, check by check. -/
theorem settings_ok_iff {v : Settings} :
    v.ok = true ↔
      v.transport ≤ 31 ∧ labelOk v.label = true ∧ modeSetOk v.modeSet = true ∧
        thresholdsOk v.advisory v.due v.limit = true ∧ (∀ g, v.group = some g → g ≤ 63) ∧ 1 ≤ v.cost ∧ v.cost ≤ 8 := by
  rw [Settings.ok]
  cases v.group <;> simp [and_assoc]

/-- The settings that an ASSIGN carries pass R2. -/
theorem settingsOf?_ok {f : SettingFields} {v : Settings} (h : settingsOf? f = some v) : v.ok = true := by
  unfold settingsOf? at h
  split at h
  · dsimp only at h
    split at h
    · rename_i hok
      cases h
      exact hok
    · cases h
  · cases h

/-- The group that a field carries is in range. -/
theorem groupOf?_le {n : Nat} {group : Option Nat} (h : groupOf? n = some group) : ∀ g, group = some g → g ≤ 63 := by
  rw [groupOf?_eq] at h
  rintro g rfl
  split_ifs at h <;> simp_all

theorem labelOf?_ok {l : LabelField} {label : List Byte} (h : labelOf? l = some label) : labelOk label = true := by
  unfold labelOf? at h
  split_ifs at h with hl
  cases h
  exact (Bool.and_eq_true_iff.1 hl).2

/-- The settings that SET WEIGHTS leaves pass R2 where the old ones did, and keep the old thresholds (R21). -/
theorem weightsOf?_spec {f : WeightFields} {old v : Settings} (h : weightsOf? f old = some v) :
    (old.ok = true → v.ok = true) ∧ v.advisory = old.advisory ∧ v.due = old.due ∧ v.limit = old.limit := by
  unfold weightsOf? at h
  split at h
  · rename_i label group policy hl hg _
    split_ifs at h with hok
    cases h
    refine ⟨fun ho => ?_, rfl, rfl, rfl⟩
    obtain ⟨ht, -, -, hthr, -⟩ := settings_ok_iff.1 ho
    simp only [Bool.and_eq_true, decide_eq_true_eq, and_assoc] at hok
    obtain ⟨hm, hc1, hc8⟩ := hok
    exact settings_ok_iff.2 ⟨ht, labelOf?_ok hl, hm, hthr, groupOf?_le hg, hc1, hc8⟩
  · cases h

/-! ### Records (R5) -/

/-- The law reads the settings, the state and the accumulator alone. -/
theorem lawful_congr {f g : Fitting} (hs : g.settings = f.settings) (hst : g.state = f.state)
    (ha : g.accumulator = f.accumulator) (h : f.lawful) : g.lawful := by
  obtain ⟨⟨v, st, a, _⟩, _⟩ := f
  obtain ⟨⟨v', st', a', _⟩, _⟩ := g
  dsimp only at hs hst ha
  subst hs hst ha
  exact h

/-- A record in the threshold state of its accumulator. -/
theorem lawful_of_threshold {f : Fitting} (hv : f.settings.ok = true) (h : f.state = f.thresholdState) : f.lawful :=
  ⟨hv, stateOk_threshold h⟩

/-- A record in BREAK_IN below advisory. -/
theorem lawful_of_breakIn {f : Fitting} (hv : f.settings.ok = true) (h : f.state = .breakIn)
    (ha : f.accumulator < f.settings.advisory) : f.lawful := by
  refine ⟨hv, ?_⟩
  rw [Account.stateOk, h]
  exact decide_eq_true ha

theorem thresholdState_below {f : Fitting} (h : f.accumulator < f.settings.advisory) : f.thresholdState = .service :=
  if_pos h

theorem afterCharge_lawful {f : Fitting} (hv : f.settings.ok = true) (passage : Bool) :
    (f.afterCharge passage).lawful := by
  unfold Fitting.afterCharge
  split
  · rename_i hb
    split
    · rename_i ha
      split
      · exact lawful_of_threshold hv (thresholdState_below ha).symm
      · exact lawful_of_breakIn hv hb ha
    · exact lawful_of_threshold hv rfl
  all_goals exact lawful_of_threshold hv rfl

theorem settle_lawful {f : Fitting} (h : f.lawful) (moved always : Bool) (L : Nat) (clock : Option Nat) :
    (f.settle moved always L clock).fitting.lawful := h

theorem evaluate_lawful {f : Fitting} (hv : f.settings.ok = true) (passage : Bool) (L : Nat) (clock : Option Nat) :
    (f.evaluate passage L clock).fitting.lawful :=
  settle_lawful (afterCharge_lawful hv passage) _ _ _ _

theorem fitted_lawful {v : Settings} (hv : v.ok = true) (a : Nat) : (v.fitted a).lawful := by
  by_cases h : (0 < v.quota && a < v.advisory) = true
  · exact lawful_of_breakIn hv (if_pos h) (of_decide_eq_true (Bool.and_eq_true_iff.1 h).2)
  · exact lawful_of_threshold hv (if_neg h)

theorem replaced_lawful {f : Fitting} (hv : f.settings.ok = true) : f.replaced.lawful := by
  obtain ⟨-, -, -, hthr, -⟩ := settings_ok_iff.1 hv
  have ha : f.replaced.accumulator < f.replaced.settings.advisory := (thresholdsOk_iff.1 hthr).1
  by_cases hq : 0 < f.settings.quota
  · exact lawful_of_breakIn hv (if_pos hq) ha
  · exact lawful_of_threshold hv ((if_neg hq).trans (thresholdState_below ha).symm)

theorem rethresholded_lawful {f : Fitting} {advisory due limit : Nat} (hv : f.settings.ok = true)
    (ht : thresholdsOk advisory due limit = true) : (f.rethresholded advisory due limit).lawful := by
  have hv' : (f.rethresholded advisory due limit).settings.ok = true := by
    obtain ⟨h1, h2, h3, -, h5⟩ := settings_ok_iff.1 hv
    exact settings_ok_iff.2 ⟨h1, h2, h3, ht, h5⟩
  by_cases h : (f.state == .breakIn && f.accumulator < advisory) = true
  · exact lawful_of_breakIn hv' (if_pos h) (of_decide_eq_true (Bool.and_eq_true_iff.1 h).2)
  · exact lawful_of_threshold hv' (if_neg h)

theorem reweighed_lawful {f : Fitting} {w : WeightFields} {v : Settings} (h : f.lawful)
    (hw : weightsOf? w f.settings = some v) : Fitting.lawful { f with settings := v } := by
  obtain ⟨hok, ha, hd, hl⟩ := weightsOf?_spec hw
  refine ⟨hok h.1, ?_⟩
  have := h.2
  simp only [Account.stateOk, ha, hd, hl] at this ⊢
  exact this

theorem rolled_lawful {f : Fitting} (h : f.lawful) (L : Nat) (carried : Option Nat) : (f.rolled L carried).lawful :=
  lawful_congr rfl rfl rfl h

theorem restarted_lawful {f : Fitting} (h : f.lawful) : f.restarted.lawful := lawful_congr rfl rfl rfl h

/-! ### Positions -/

@[simp] theorem onFitting_fitting? (g : Fitting → Fitting) (e : Element) :
    (e.onFitting g).fitting? = e.fitting?.map g := by
  obtain ⟨gen, _ | _ | f⟩ := e <;> rfl

theorem onFitting_lawful {g : Fitting → Fitting} (hg : ∀ f, f.lawful → (g f).lawful) {e : Element} {f : Fitting}
    (h : (e.onFitting g).fitting? = some f) (he : ∀ f, e.fitting? = some f → f.lawful) : f.lawful := by
  rw [onFitting_fitting?, Option.map_eq_some_iff] at h
  obtain ⟨f', hf', rfl⟩ := h
  exact hg _ (he _ hf')

theorem waiveElement_lawful {t : Nat} {e : Element} {f : Fitting} (h : (waiveElement t e).fitting? = some f)
    (he : ∀ f, e.fitting? = some f → f.lawful) : f.lawful := by
  unfold waiveElement at h
  split at h
  · rename_i f' hf'
    have hl : f'.lawful := he f' (by rw [Element.fitting?, hf'])
    split at h
    · cases h
      exact lawful_congr rfl rfl rfl hl
    · rw [Element.fitting?, hf'] at h
      cases h
      exact hl
  · exact he f h
  · exact he f h

/-! ### The restore (R165, R173) -/

/-- A place of the restored table, from its slot. -/
theorem tget_restored (st : Store) {i : Nat} (hi : i < 240) :
    tget st.restored i .vacant = restoredElement ((st.element i).checked (ElementRecord.ok i)) := by
  have hl : i < st.elements.toArray.toList.length := by simpa using hi
  simp only [tget, Store.restored, Store.checkedElements, tenum, Store.element, List.getD_eq_getElem?_getD,
    List.getElem?_map, List.getElem?_zipIdx, List.getElem?_eq_getElem hl, Option.map_some, Option.getD_some,
    Nat.zero_add]

/-- A slot reads as a record only where the record is valid. -/
theorem checked_written {α : Type} {ok : α → Bool} {x : StoreSlot α} {r : α} (h : x.checked ok = .written r) :
    x = .written r ∧ ok r = true := by
  unfold StoreSlot.checked at h
  split at h
  · split_ifs at h with hok
    cases h
    exact ⟨rfl, hok⟩
  · cases h
  · cases h

theorem restoredElement_lawful {i : Nat} {x : StoreSlot ElementRecord} {f : Fitting}
    (h : (restoredElement (x.checked (ElementRecord.ok i))).fitting? = some f) : f.lawful := by
  unfold restoredElement at h
  split at h
  · cases h
  · cases h
  · rename_i r hr
    obtain ⟨-, hok⟩ := checked_written hr
    simp only [Element.fitting?] at h
    cases hp : r.position with
    | vacant => simp [hp] at h
    | suspect => simp [hp] at h
    | assigned a =>
      simp only [hp, Option.some.injEq] at h
      subst h
      simp only [ElementRecord.ok, hp, Bool.and_eq_true] at hok
      exact ⟨hok.2.1.1, hok.2.2⟩

theorem restored_lawful (st : Store) {i : Nat} {f : Fitting} (h : (tget st.restored i .vacant).fitting? = some f) :
    f.lawful := by
  by_cases hi : i < 240
  · rw [tget_restored st hi] at h
    exact restoredElement_lawful h
  · rw [tget_of_le _ _ (by omega)] at h
    cases h

end Sys2Proof.Machine
end

section
/-! The element law (R2, R5, R6): every row keeps it. -/

namespace Sys2Proof.Machine

variable {s : State}

/-! ### What leaves the element table as it is -/

theorem elementsLawful_host : KeptByHost State.elementsLawful where
  chosen s h := elementsLawful_congr (arbitrate_elements s) h
  inHand _ _ h := elementsLawful_congr rfl h
  frame _ _ h := elementsLawful_congr rfl h

theorem lineBytes_elements (s : State) (bytes : List Byte) : (s.lineBytes bytes).elements = s.elements :=
  foldl_keeps State.elements (fun u b => lineByte_elements u b) bytes s

theorem setClockWork_elements (v : Nat) (s : State) : (setClockWork v s).state.elements = s.elements := by
  unfold setClockWork
  split_ifs <;> rfl

theorem startWork_elements (s : State) : (startWork s).state.elements = s.elements := by
  unfold startWork
  split_ifs <;> rfl

theorem stopWork_elements (s : State) : (stopWork s).state.elements = s.elements := by
  unfold stopWork
  split_ifs
  · exact triggerCheckpoint_elements _
  · rfl

theorem wipeWork_elements (s : State) : (wipeWork s).state.elements = s.elements := by
  unfold wipeWork
  split_ifs <;> rfl

theorem setWatchWork_elements (n : Nat) (s : State) : (setWatchWork n s).state.elements = s.elements := by
  unfold setWatchWork
  split <;> rfl

theorem armCaptureWork_elements (level scope : Nat) (s : State) :
    (armCaptureWork level scope s).state.elements = s.elements := by
  unfold armCaptureWork
  split <;> rfl

theorem editMap_elements (s : State) (ok : Bool) (m : RouteMap) (reply : List Byte) :
    (s.editMap ok m reply).state.elements = s.elements := by
  unfold State.editMap
  split_ifs <;> rfl

theorem addWindowWork_elements (start length capacity : Nat) (s : State) :
    (addWindowWork start length capacity s).state.elements = s.elements := by
  unfold addWindowWork
  (repeat' split) <;> rfl

theorem removeWindowWork_elements (k : Nat) (s : State) : (removeWindowWork k s).state.elements = s.elements := by
  unfold removeWindowWork
  (repeat' split) <;> rfl

theorem pinWork_elements (i k : Nat) (s : State) : (pinWork i k s).state.elements = s.elements := by
  unfold pinWork
  (repeat' split) <;> rfl

theorem unpinWork_elements (i : Nat) (s : State) : (unpinWork i s).state.elements = s.elements := by
  unfold unpinWork
  (repeat' split) <;> rfl

theorem saveWork_elements (s : State) : (saveWork s).state.elements = s.elements := by
  unfold saveWork
  split <;> exact triggerCheckpoint_elements _

theorem fetchAlertsWork_elements (mask : BitVec 32) (s : State) :
    (fetchAlertsWork mask s).state.elements = s.elements := by
  unfold fetchAlertsWork
  split_ifs <;> rfl

theorem setNoticeMaskWork_elements (mask : BitVec 32) (s : State) :
    (setNoticeMaskWork mask s).state.elements = s.elements := by
  unfold setNoticeMaskWork
  split_ifs <;> rfl

/-! ### Charges, the roll and the restart of the interval -/

theorem elementsLawful_charges : KeptByCharges State.elementsLawful := by
  intro s i f c hf hs
  refine elementsLawful_of_tset (applyCharge_elements s i f c) hs fun g hg => ?_
  cases hg
  refine evaluate_lawful ?_ _ _ _
  rw [charge_settings]
  exact (hs i f hf).1

theorem elementsLawful_work : KeptByWork State.elementsLawful where
  charges := elementsLawful_charges
  work _ _ h := elementsLawful_congr rfl h
  done _ h := elementsLawful_congr rfl h
  counted _ _ h := elementsLawful_congr rfl h

/-- A slice of the table with lawful records written over lawful ones. -/
theorem elementsLawful_of_rollTable {u : State} {L first count : Nat} {carried : Option Nat}
    (h : u.elements = rollTable L carried first count s.elements) (hs : s.elementsLawful) : u.elementsLawful := by
  intro i f hf
  have hi := fitting?_lt hf
  rw [State.fitting?, element_eq, h, rollTable, tget_tslice _ _ _ _ _ hi] at hf
  split_ifs at hf
  · exact onFitting_lawful (fun _ hg => rolled_lawful hg L carried) hf (hs i)
  · exact hs i f hf

theorem runOn_elementsLawful (hs : s.elementsLawful) (acts : Option Nat) : (s.runOn acts).elementsLawful :=
  runOn_keeps elementsLawful_charges (fun _ _ h => elementsLawful_congr rfl h) s acts hs

theorem rollOn_elementsLawful (hs : s.elementsLawful) (carried : Option Nat) (next : Nat) (examined : Option Nat) :
    (s.rollOn carried next examined).elementsLawful :=
  rollOn_keeps (fun _ _ _ _ h => elementsLawful_of_rollTable rfl h) (fun _ h => elementsLawful_congr rfl h)
    (fun u h => elementsLawful_congr (triggerCheckpoint_elements u) h) s examined hs

theorem deliverSnapshot_elementsLawful (hs : s.elementsLawful) : s.deliverSnapshot.elementsLawful :=
  elementsLawful_congr (deliverSnapshot_elements s) hs

theorem deliverRoll_elementsLawful (hs : s.elementsLawful) (examined : Option Nat) :
    (s.deliverRoll examined).elementsLawful := by
  have begun : ∀ carried, (if (s.runOn none).recordCharged
      then (s.runOn none).setBoundary (some ⟨carried, .waits⟩)
      else (s.runOn none).rollOn carried 0 examined).elementsLawful := by
    intro carried
    split
    · exact elementsLawful_congr rfl (runOn_elementsLawful hs none)
    · exact rollOn_elementsLawful (runOn_elementsLawful hs none) _ _ _
  unfold State.deliverRoll
  split
  · exact rollOn_elementsLawful hs _ _ _
  · exact begun _
  · exact begun _
  · exact hs

theorem finishBoundary_elementsLawful (hs : s.elementsLawful) : s.finishBoundary.elementsLawful := by
  have hd := deliverSnapshot_elementsLawful hs
  have ended : (State.deliverRoll (if (s.deliverSnapshot.runOn none).recordCharged
      then (s.deliverSnapshot.runOn none).goOn none else s.deliverSnapshot.runOn none) none).elementsLawful := by
    refine deliverRoll_elementsLawful ?_ none
    split
    · exact goOn_keeps elementsLawful_work _ none (runOn_elementsLawful hd none)
    · exact runOn_elementsLawful hd none
  unfold State.finishBoundary
  split
  · exact deliverRoll_elementsLawful hd none
  · exact ended
  · exact ended
  · exact hd

theorem finishTick_elementsLawful (hs : s.elementsLawful) : s.finishTick.elementsLawful := by
  refine finishBoundary_elementsLawful (elementsLawful_congr ?_ hs)
  rw [deliverHoldTick_elements, deliverPlanTick_elements]

/-! ### Events -/

theorem takeTick_elementsLawful (hs : s.elementsLawful) (examined : Option Nat) :
    (s.takeTick examined).elementsLawful := by
  unfold State.takeTick
  split
  · exact runOn_elementsLawful hs _
  · have hc : s.finishTick.countTick.elementsLawful := elementsLawful_congr rfl (finishTick_elementsLawful hs)
    refine elementsLawful_congr ?_ (runOn_elementsLawful hc examined)
    simp [State.minuteTick]

theorem takeBoundary_elementsLawful (hs : s.elementsLawful) : s.takeBoundary.elementsLawful := by
  have hc : s.cutTaken.elementsLawful := elementsLawful_congr rfl hs
  unfold State.takeBoundary
  split
  · exact hs
  · split
    · exact deliverRoll_elementsLawful (deliverSnapshot_elementsLawful hc) _
    · exact deliverSnapshot_elementsLawful hc
    · exact deliverRoll_elementsLawful hc _

theorem beginRecord_elementsLawful (hs : s.elementsLawful) (acts : Option Nat) (r : LineRecord) :
    (s.beginRecord acts r).elementsLawful := by
  cases r with
  | item it =>
    dsimp only [State.beginRecord]
    split
    · exact itemWork_keeps elementsLawful_work _ _ _ _ _ (elementsLawful_congr rfl hs)
    · exact elementsLawful_congr rfl hs
  | mode m => exact elementsLawful_congr (takeMode_elements s m) hs
  | tach t drive belt valid => exact elementsLawful_congr rfl hs
  | jam t severity =>
    dsimp only [State.beginRecord]
    split
    · exact jamWork_keeps elementsLawful_work _ _ _ _ _ _ (elementsLawful_congr rfl hs)
    · exact elementsLawful_congr rfl hs

theorem takeRecord_elementsLawful (hs : s.elementsLawful) : s.takeRecord.elementsLawful := by
  unfold State.takeRecord
  split
  · exact hs
  · exact goOn_keeps elementsLawful_work _ _ (elementsLawful_congr rfl hs)
  · refine beginRecord_elementsLawful ?_ _ _
    exact elementsLawful_congr rfl hs
  · exact hs

/-! ### Start-ups -/

/-- A start-up begins with every position VACANT (R173; notes/assumptions/8.md). -/
theorem vacant_elementsLawful {u : State} (h : u.elements = Vector.replicate 240 .vacant) : u.elementsLawful := by
  intro i f hf
  rw [State.fitting?, element_eq, h, tget_replicate] at hf
  split_ifs at hf <;> cases hf

theorem beginStartup_elementsLawful (s : State) (store : Store) (erasing : Bool) :
    (s.beginStartup store erasing).elementsLawful := vacant_elementsLawful rfl

theorem restore_elementsLawful (hs : s.elementsLawful) : s.restore.elementsLawful := by
  unfold State.restore
  split
  · exact hs
  · dsimp only
    intro i f hf
    rw [State.fitting?, element_eq, restoreElements_elements] at hf
    exact restored_lawful _ hf

theorem takeStartup_elementsLawful (hs : s.elementsLawful) (acts : Option Nat) :
    (s.takeStartup acts).elementsLawful := by
  cases acts with
  | none => exact elementsLawful_congr rfl (restore_elementsLawful hs)
  | some n => exact restore_elementsLawful hs

theorem replySent_elementsLawful (hs : s.elementsLawful) : s.replySent.elementsLawful := by
  unfold State.replySent
  split
  · split
    · exact elementsLawful_congr rfl hs
    · exact beginStartup_elementsLawful _ _ _
    · exact beginStartup_elementsLawful _ _ _
  · exact hs

/-! ### Requests on elements, options and holds -/

theorem putOptions_elementsLawful (hs : s.elementsLawful) (o : Options) : (s.putOptions o).elementsLawful := by
  unfold State.putOptions
  split
  · exact elementsLawful_congr rfl hs
  · exact elementsLawful_of_tmap rfl (fun _ _ h he => onFitting_lawful (fun _ hg => restarted_lawful hg) h he)
      (finishBoundary_elementsLawful hs)

theorem setOptionsWork_elementsLawful (hs : s.elementsLawful) (fields : OptionFields) :
    (setOptionsWork fields s).state.elementsLawful := by
  unfold setOptionsWork
  split
  · exact hs
  · split
    · exact hs
    · exact putOptions_elementsLawful hs _

/-- An evaluation with a lawful record is stored. -/
theorem handOff_elementsLawful (hs : s.elementsLawful) (o : Offer) {ev : Evaluation} (h : ev.fitting.lawful) :
    (s.handOff o ev).elementsLawful :=
  elementsLawful_of_tset (handOff_elements s o ev) hs fun f hf => by cases hf; exact h

/-- A lawful record is fitted. -/
theorem fit_elementsLawful (hs : s.elementsLawful) (i : Nat) {f : Fitting} (h : f.lawful) :
    (s.fit i f).elementsLawful :=
  elementsLawful_of_tset (fit_elements s i f) hs fun g hg => by cases hg; exact h

theorem setFitting_elementsLawful (hs : s.elementsLawful) (i : Nat) {f : Fitting} (h : f.lawful) :
    (s.setFitting i f).elementsLawful :=
  elementsLawful_of_tset (setFitting_elements s i f) hs fun g hg => by cases hg; exact h

theorem vacate_elementsLawful (hs : s.elementsLawful) (i : Nat) : (s.vacate i).elementsLawful :=
  elementsLawful_of_tset (vacate_elements s i) hs fun f hf => by cases hf

theorem assignElementWork_elementsLawful (hs : s.elementsLawful) (i : Nat) (fields : SettingFields) (a : Nat) :
    (assignElementWork i fields a s).state.elementsLawful := by
  unfold assignElementWork
  split
  · exact hs
  · split
    · exact hs
    · split
      · exact hs
      · rename_i v hv
        have hf := fitted_lawful (settingsOf?_ok hv) a
        exact handOff_elementsLawful (fit_elementsLawful hs i hf) _ (settle_lawful hf _ _ _ _)

theorem replaceElementWork_elementsLawful (hs : s.elementsLawful) (i : Nat) :
    (replaceElementWork i s).state.elementsLawful := by
  unfold replaceElementWork
  split
  · exact hs
  · split
    · exact hs
    · rename_i f hf
      exact elementsLawful_congr rfl (fit_elementsLawful hs i (replaced_lawful (hs i f hf).1))

theorem retireElementWork_elementsLawful (hs : s.elementsLawful) (i : Nat) :
    (retireElementWork i s).state.elementsLawful := by
  unfold retireElementWork
  dsimp only
  split
  · exact hs
  · split
    · exact hs
    · exact vacate_elementsLawful hs i
    · exact elementsLawful_congr rfl (vacate_elementsLawful hs i)

theorem setThresholdsWork_elementsLawful (hs : s.elementsLawful) (i advisory due limit : Nat) :
    (setThresholdsWork i advisory due limit s).state.elementsLawful := by
  unfold setThresholdsWork
  split
  · exact hs
  · split
    · exact hs
    · rename_i f hf
      split
      · exact hs
      · split
        · rename_i hok
          exact handOff_elementsLawful hs _ (settle_lawful (rethresholded_lawful (hs i f hf).1 hok) _ _ _ _)
        · exact hs

theorem recost_elements (s : State) (i old new : Nat) : (s.recost i old new).elements = s.elements := by
  unfold State.recost
  split <;> rfl

theorem setWeightsWork_elementsLawful (hs : s.elementsLawful) (i : Nat) (fields : WeightFields) :
    (setWeightsWork i fields s).state.elementsLawful := by
  unfold setWeightsWork
  split
  · exact hs
  · split
    · exact hs
    · rename_i f hf
      split
      · exact hs
      · rename_i v hv
        exact elementsLawful_congr (recost_elements _ i f.settings.cost v.cost)
          (setFitting_elementsLawful hs i (reweighed_lawful (hs i f hf) hv))

theorem waiveHoldWork_elementsLawful (hs : s.elementsLawful) (i setting : Nat) :
    (waiveHoldWork i setting s).state.elementsLawful := by
  unfold waiveHoldWork
  split
  · exact hs
  · split
    · exact hs
    · rename_i f hf
      split
      · split
        · exact elementsLawful_congr rfl (setFitting_elementsLawful hs i (lawful_congr rfl rfl rfl (hs i f hf)))
        · exact hs
      · exact hs

theorem waiveTransport_elementsLawful (hs : s.elementsLawful) (t : Nat) : (s.waiveTransport t).elementsLawful :=
  elementsLawful_of_tmap (waiveTransport_elements s t) (fun _ _ h he => waiveElement_lawful h he) hs

theorem abortHoldWork_elementsLawful (hs : s.elementsLawful) (k : Nat) :
    (abortHoldWork k s).state.elementsLawful := by
  have aborted : ∀ t, (s.abort k t).elementsLawful := fun t =>
    elementsLawful_congr rfl
      (waiveTransport_elementsLawful (s := { s with hold := s.hold.giveUp s.arbiterOn k t .aborted })
        (elementsLawful_congr rfl hs) t)
  unfold abortHoldWork
  split
  · exact hs
  · split
    · exact aborted _
    · exact aborted _
    · exact hs

theorem releaseHoldWork_elementsLawful (hs : s.elementsLawful) (t : Nat) :
    (releaseHoldWork t s).state.elementsLawful := by
  unfold releaseHoldWork
  split
  · exact hs
  · exact elementsLawful_congr rfl (waiveTransport_elementsLawful hs t)

/-! ### Rows -/

/-- A row whose work keeps the element table. -/
theorem request_elementsLawful {i : Instr} {work : State → Answer} (hs : s.elementsLawful)
    (hw : (work s).state.elements = s.elements) : Lands State.elementsLawful (s.request i work) :=
  request_lands elementsLawful_host hs (elementsLawful_congr hw hs)

theorem act_elementsLawful {f : State → State} (hs : s.elementsLawful) (hf : (f s).elements = s.elements) :
    Lands State.elementsLawful (s.act f) :=
  act_lands elementsLawful_host hs (elementsLawful_congr hf hs)

/-- Every row of a request keeps the element law. -/
theorem request_row_elementsLawful (i : Instr) (s : State) (hi : requestCommand i ≠ none) (hs : s.elementsLawful) :
    Lands State.elementsLawful (exec i s) := by
  have host := elementsLawful_host
  cases i with
  | setClock v => exact request_elementsLawful hs (setClockWork_elements v s)
  | start => exact request_elementsLawful hs (startWork_elements s)
  | stop => exact request_elementsLawful hs (stopWork_elements s)
  | wipe => exact request_elementsLawful hs (wipeWork_elements s)
  | setOptions fields => exact request_lands host hs (setOptionsWork_elementsLawful hs fields)
  | assignElement n fields a => exact request_lands host hs (assignElementWork_elementsLawful hs n fields a)
  | replaceElement n => exact request_lands host hs (replaceElementWork_elementsLawful hs n)
  | retireElement n => exact request_lands host hs (retireElementWork_elementsLawful hs n)
  | setThresholds n a d l => exact request_lands host hs (setThresholdsWork_elementsLawful hs n a d l)
  | setWeights n fields => exact request_lands host hs (setWeightsWork_elementsLawful hs n fields)
  | waiveHold n setting => exact request_lands host hs (waiveHoldWork_elementsLawful hs n setting)
  | abortHold k => exact request_lands host hs (abortHoldWork_elementsLawful hs k)
  | releaseHold t => exact request_lands host hs (releaseHoldWork_elementsLawful hs t)
  | readElement n => exact request_elementsLawful hs (by split <;> rfl)
  | listElements n filter transport => exact request_elementsLawful hs (by split <;> rfl)
  | setWatch n => exact request_elementsLawful hs (setWatchWork_elements n s)
  | armCapture level scope => exact request_elementsLawful hs (armCaptureWork_elements level scope s)
  | setMask _ _ | setRoute _ _ _ _ _ | clearRoute _ | setCommonPath _ =>
    exact request_elementsLawful hs (editMap_elements s _ _ _)
  | readRoute n => exact request_elementsLawful hs (by split <;> rfl)
  | readRouteCounts clear => exact request_elementsLawful hs (by split <;> rfl)
  | readTransport n => exact request_elementsLawful hs (by split <;> rfl)
  | readIntervalCounts n number => exact request_elementsLawful hs (by split <;> rfl)
  | addWindow start length capacity => exact request_elementsLawful hs (addWindowWork_elements start length capacity s)
  | removeWindow k => exact request_elementsLawful hs (removeWindowWork_elements k s)
  | pin n k => exact request_elementsLawful hs (pinWork_elements n k s)
  | unpin n => exact request_elementsLawful hs (unpinWork_elements n s)
  | readPlan n => exact request_elementsLawful hs (by split <;> rfl)
  | readWindows n => exact request_elementsLawful hs (by split <;> rfl)
  | save => exact request_elementsLawful hs (saveWork_elements s)
  | readSaveStatus => exact execReadSaveStatus_lands host hs
  | fetchAlerts mask => exact request_elementsLawful hs (fetchAlertsWork_elements mask s)
  | setNoticeMask mask => exact request_elementsLawful hs (setNoticeMaskWork_elements mask s)
  | status | restart | readOptions | clearCounts | readWatch | readCapture | readHolds | replan =>
    exact request_elementsLawful hs rfl
  | _ => exact absurd rfl hi

/-- Every row keeps the element law. -/
theorem row_elementsLawful (i : Instr) (s : State) (hs : s.elementsLawful) :
    Lands State.elementsLawful (exec i s) := by
  have host := elementsLawful_host
  cases i with
  | powerOn => exact lands_next.2 (host.chosen _ (beginStartup_elementsLawful _ _ _))
  | resetPin erased =>
    exact act_lands (f := fun s => s.beginStartup (s.storeAtReset erased) false) host hs
      (beginStartup_elementsLawful _ _ _)
  | powerLoss tear erased torn =>
    refine lands_next.2 ?_
    split
    · exact vacant_elementsLawful rfl
    · exact hs
  | startupEnd =>
    refine act_lands host hs ?_
    split
    · exact takeStartup_elementsLawful (s := s.cutTaken) (elementsLawful_congr rfl hs) _
    · exact hs
  | lineRecordArrival bytes => exact act_elementsLawful (f := (·.lineBytes bytes)) hs (lineBytes_elements s bytes)
  | lineRecordAbandoned => exact act_elementsLawful hs (lineGap_elements s)
  | takeRecord => exact act_lands host hs (takeRecord_elementsLawful hs)
  | minuteTick =>
    refine act_lands host hs ?_
    split
    · exact takeTick_elementsLawful (s := s.cutTaken) (elementsLawful_congr rfl hs) _
    · exact hs
  | deferralEnd => exact act_elementsLawful hs (deliverHoldTick_elements s)
  | windowExpiry => exact act_elementsLawful hs (deliverPlanTick_elements s)
  | intervalBoundary => exact act_lands host hs (takeBoundary_elementsLawful hs)
  | checkpointRecordWritten result =>
    exact act_elementsLawful (f := (·.recordWritten result)) hs (recordWritten_elements s result)
  | hostReplySent =>
    exact execHostReplySent_lands host (fun _ h => elementsLawful_congr rfl h)
      (fun _ h => replySent_elementsLawful h) request_row_elementsLawful hs
  | busyReplySent => exact act_elementsLawful hs (busySent_elements s)
  | noticeSent => exact act_elementsLawful hs (noticeSent_elements s)
  | lineByteReceived b => exact act_elementsLawful (f := (·.lineByte b)) hs (lineByte_elements s b)
  | lineTxSent => exact act_elementsLawful (f := fun s => { s with hold := s.hold.headSent _ }) hs rfl
  | holdTimerExpiry slot => exact act_elementsLawful (f := (·.expireSlot slot)) hs rfl
  | hostFrameComplete bytes => exact act_elementsLawful (f := (·.hostReceive bytes)) hs rfl
  | hostFrameAbandoned =>
    exact act_elementsLawful (f := fun s => { s with host := { s.host with rx := .hunting } }) hs rfl
  | hostByteReceived b => exact act_elementsLawful (f := (·.hostReceive [b])) hs rfl
  | _ => exact request_row_elementsLawful _ s (by simp [requestCommand]) hs

/-- Settles O53: every row keeps the element law, and taking a command off the queue keeps the elements. -/
theorem elementLawKept : Obligations.ElementLawKept := by
  intro s t hs h
  exact step_keeps (fun _ _ hs => elementsLawful_congr rfl hs) row_elementsLawful hs t h

end Sys2Proof.Machine
end

section
/-! The laws right after reset: every position is VACANT, every transport's record is fresh, and nothing is queued,
counted, asked or planned (R25, R71, R99, R112, R142). -/

namespace Sys2Proof.Machine

theorem reset_transportsLawful : State.reset.transportsLawful :=
  (transportsLawful_iff _).2 fun r hr => by
    rw [State.reset, tlist_replicate] at hr
    rw [List.eq_of_mem_replicate hr]
    exact fresh_transport_lawful

theorem reset_itemsBalance : State.reset.itemsBalance := by
  have hm : State.reset.routes.matched = 0 := by decide
  exact ⟨rfl, by rw [hm]; rfl⟩

theorem reset_conditionsLatched : State.reset.conditionsLatched := by
  unfold State.conditionsLatched
  decide

theorem reset_planLawful : State.reset.planLawful := by
  refine ⟨⟨Nat.zero_le _, List.nodup_nil, fun _ he => nomatch he⟩, fun k w hw => ?_, fun _ he => nomatch he⟩
  rw [PlanUnit.window, State.reset, PlanUnit.fresh, tget_replicate] at hw
  split_ifs at hw

/-- Settles O60: the state after reset is empty in every block, so that each law holds of it. -/
theorem lawsHoldAtReset : Obligations.LawsHoldAtReset :=
  ⟨vacant_elementsLawful rfl, reset_transportsLawful, ⟨Nat.zero_le _, Nat.zero_le _, Nat.zero_le _⟩,
    reset_itemsBalance, reset_conditionsLatched, fresh_sound.1, fresh_sound.2, reset_planLawful⟩

end Sys2Proof.Machine
end

section
/-! Requests on elements: REPLACE and RETIRE ELEMENT, and SET THRESHOLDS with its evaluation (R2, R4, R15, R17, R19,
R20). -/

namespace Sys2Proof.Machine

/-! ### REPLACE and RETIRE -/

/-- The ring of a watched element empties at its fitting notice (R49). -/
theorem fittingNotice_eq (w : WearEngine) (i : Nat) :
    w.fittingNotice i = { w with ring := if w.watched = some i then [] else w.ring } := by
  unfold WearEngine.fittingNotice
  by_cases h : w.watched = some i <;> simp [h]

theorem replaceElementWork_unassigned {s : State} {n : Nat} (hn : n ≤ 239) (hf : s.fitting? n = none) :
    replaceElementWork n s = refuse s .elementState := by
  rw [replaceElementWork, if_neg (Nat.not_lt.2 hn), hf]

theorem replaceElementWork_assigned {s : State} {n : Nat} {f : Fitting} (hn : n ≤ 239) (hf : s.fitting? n = some f) :
    replaceElementWork n s = accept (s.replace n f)
      (u8 n ++ u8 f.replaced.state.code ++ u16 ((s.element n).generation + 1).toNat) := by
  rw [replaceElementWork, if_neg (Nat.not_lt.2 hn), hf]

/-- Settles O16, branch by branch of the request's work. -/
theorem replaceElement : Obligations.ReplaceElement := by
  intro s code n hs
  refine ⟨fun hn => request_refuses hs (if_pos hn),
    fun hn hf => request_refuses hs (replaceElementWork_unassigned hn hf), fun f hn hf => ?_⟩
  refine (request_accepts hs (replaceElementWork_assigned hn hf)).trans ?_
  rw [State.replace, State.fit, fittingNotice_eq]
  rfl

theorem retireElementWork_outside {s : State} {n : Nat} (hn : 239 < n) :
    retireElementWork n s = refuse s .badValue := if_pos hn

theorem retireElementWork_vacant {s : State} {n : Nat} (hn : n ≤ 239) (h : (s.element n).position = .vacant) :
    retireElementWork n s = refuse s .elementState := by
  rw [retireElementWork]
  simp only [if_neg (Nat.not_lt.2 hn), h]

theorem retireElementWork_suspect {s : State} {n : Nat} (hn : n ≤ 239) (h : (s.element n).position = .suspect) :
    retireElementWork n s = accept (s.vacate n) (u8 n ++ u16 (s.element n).generation.toNat) := by
  rw [retireElementWork]
  simp only [if_neg (Nat.not_lt.2 hn), h]

theorem retireElementWork_assigned {s : State} {n : Nat} {f : Fitting} (hn : n ≤ 239)
    (h : (s.element n).position = .assigned f) :
    retireElementWork n s = accept (((s.vacate n).dropEntry n).reevaluate f.settings.transport)
      (u8 n ++ u16 (s.element n).generation.toNat) := by
  rw [retireElementWork]
  simp only [if_neg (Nat.not_lt.2 hn), h]

/-- Settles O17, by what stands at the position. -/
theorem retireElement : Obligations.RetireElement := by
  intro s code n hs
  refine ⟨fun hn => request_refuses hs (retireElementWork_outside hn),
    fun hn h => request_refuses hs (retireElementWork_vacant hn h), fun hn h => ?_, fun f hn h => ?_⟩
  · refine (request_accepts hs (retireElementWork_suspect hn h)).trans ?_
    rw [State.vacate, fittingNotice_eq]
  · refine (request_accepts hs (retireElementWork_assigned hn h)).trans ?_
    rw [State.vacate, fittingNotice_eq]
    rfl

/-! ### SET THRESHOLDS -/

theorem bne_eq_decide_ne {α : Type} [DecidableEq α] (a b : α) : (a != b) = decide (a ≠ b) := by
  by_cases h : a = b <;> simp [h]

theorem setThresholdsWork_unassigned {s : State} {n a d l : Nat} (hn : n ≤ 239) (hf : s.fitting? n = none) :
    setThresholdsWork n a d l s = refuse s .elementState := by
  rw [setThresholdsWork, if_neg (Nat.not_lt.2 hn), hf]

theorem setThresholdsWork_limit {s : State} {n a d l : Nat} {f : Fitting} (hn : n ≤ 239)
    (hf : s.fitting? n = some f) (h : f.state = .limit) :
    setThresholdsWork n a d l s = refuse s .elementState := by
  rw [setThresholdsWork, if_neg (Nat.not_lt.2 hn), hf]
  exact if_pos h

theorem setThresholdsWork_invalid {s : State} {n a d l : Nat} {f : Fitting} (hn : n ≤ 239)
    (hf : s.fitting? n = some f) (h : f.state ≠ .limit) (hv : thresholdsOk a d l = false) :
    setThresholdsWork n a d l s = refuse s .badValue := by
  rw [setThresholdsWork, if_neg (Nat.not_lt.2 hn), hf]
  simp only [if_neg h, hv]
  rfl

theorem setThresholdsWork_valid {s : State} {n a d l : Nat} {f : Fitting} (hn : n ≤ 239)
    (hf : s.fitting? n = some f) (h : f.state ≠ .limit) (hv : thresholdsOk a d l = true) :
    setThresholdsWork n a d l s =
      accept (s.handOff ⟨n, .setting, s.clock⟩ (s.thresholdEvaluation f a d l))
        (u8 n ++ u8 (s.thresholdEvaluation f a d l).fitting.state.code ++
          (s.thresholdEvaluation f a d l).fitting.projection.bytes) := by
  rw [setThresholdsWork, if_neg (Nat.not_lt.2 hn), hf]
  simp only [if_neg h, hv]
  rfl

/-- The record that SET THRESHOLDS stores, before its projection: BREAK_IN stays below the new advisory, and each flag
stands exactly where its threshold is reached (R19, R20). -/
def Fitting.withThresholds (f : Fitting) (advisory due limit : Nat) : Fitting :=
  let stays : Bool := f.state = .breakIn ∧ f.accumulator < advisory
  { f with
    settings := { f.settings with advisory := advisory, due := due, limit := limit }
    state := if stays then .breakIn else Machine.thresholdState f.accumulator advisory due limit
    breakInRemaining := if stays then f.breakInRemaining else 0
    milestones := ⟨advisory ≤ f.accumulator, due ≤ f.accumulator, limit ≤ f.accumulator⟩ }

/-- A flag that R20 clears and R9 then sets stands where its threshold is reached. -/
theorem rethresholded_reportedFlags (f : Fitting) (a d l : Nat) :
    (f.rethresholded a d l).reportedFlags = (f.withThresholds a d l).milestones := by
  simp only [Fitting.reportedFlags, Fitting.rethresholded, Fitting.clearedFlags, Fitting.withThresholds,
    Milestones.mk.injEq, Bool.or_eq_right_iff_imp, Bool.and_eq_true]
  exact ⟨And.right, And.right, And.right⟩

/-- A reached level is new where its flag was clear before (R9, R20). -/
theorem rethresholded_unreported (f : Fitting) (a d l : Nat) :
    (f.rethresholded a d l).unreported = [Level.advised, .due, .limit].filter fun level =>
      (f.withThresholds a d l).settings.threshold level ≤ f.accumulator && !f.milestones.reported level := by
  refine List.filter_congr fun level _ => ?_
  have hc : (f.rethresholded a d l).milestones.reported level =
      (f.milestones.reported level && decide ((f.withThresholds a d l).settings.threshold level ≤ f.accumulator)) := by
    cases level <;> rfl
  rw [hc]
  show (decide ((f.withThresholds a d l).settings.threshold level ≤ f.accumulator) && _) = _
  cases decide ((f.withThresholds a d l).settings.threshold level ≤ f.accumulator) <;> simp

theorem rethresholded_eq (f : Fitting) (a d l : Nat) :
    f.rethresholded a d l =
      { f.withThresholds a d l with milestones := (f.rethresholded a d l).milestones } := by
  have hb : (f.state == .breakIn && decide (f.accumulator < a)) =
      decide (f.state = .breakIn ∧ f.accumulator < a) := by
    rw [Bool.decide_and]; rfl
  simp only [Fitting.rethresholded, Fitting.withThresholds, hb, Fitting.thresholdState]

/-- The evaluation of an accepted SET THRESHOLDS, field by field. -/
theorem thresholdEvaluation_eq (s : State) (f : Fitting) (a d l : Nat) :
    let stored := f.withThresholds a d l
    let g : Fitting := { stored with projection := stored.projected s.options.intervalLength s.clock }
    s.thresholdEvaluation f a d l =
      { fitting := g
        levels := [Level.advised, .due, .limit].filter fun level =>
          stored.settings.threshold level ≤ f.accumulator && !f.milestones.reported level
        moved := g.state ≠ f.state
        projectionMoved := g.projection ≠ f.projection } := by
  intro stored g
  have hr := rethresholded_eq f a d l
  have hst : (f.rethresholded a d l).state = g.state := by rw [hr]
  have hp : (f.rethresholded a d l).projected s.options.intervalLength s.clock = g.projection :=
    projected_congr hst rfl rfl rfl rfl _ _
  simp only [State.thresholdEvaluation, Fitting.settle, rethresholded_unreported, rethresholded_reportedFlags, hst, hp,
    Bool.or_true, Bool.true_or, if_true, Evaluation.mk.injEq]
  refine ⟨?_, rfl, bne_eq_decide_ne _ _, ?_⟩
  · rw [hr]
  · rw [show (f.rethresholded a d l).projection = f.projection from rfl]
    exact bne_eq_decide_ne _ _
/-- Settles O18, by the evaluation's fields. -/
theorem setThresholds : Obligations.SetThresholds := by
  refine ⟨fun s code n a d l hs => ⟨fun hn => request_refuses hs (if_pos hn),
    fun hn hf => request_refuses hs (setThresholdsWork_unassigned hn hf), fun f hn hf =>
      ⟨fun h => request_refuses hs (setThresholdsWork_limit hn hf h),
        fun h hv => request_refuses hs (setThresholdsWork_invalid hn hf h hv), fun h hv => ?_⟩⟩,
    fun a d l => thresholdsOk_iff⟩
  refine (request_accepts hs (setThresholdsWork_valid hn hf h hv)).trans ?_
  rw [thresholdEvaluation_eq]
  rfl

end Sys2Proof.Machine
end

section
/-! ASSIGN ELEMENT and SET WEIGHTS: the values they accept (R2), and what an accepted one does (R12 to R14, R21,
R22). -/

namespace Sys2Proof.Machine

/-! ### Values -/

/-- The settings that the fields of an ASSIGN spell, each field in its range or not (R12, R180). -/
def Settings.ofFields (f : SettingFields) : Settings where
  kind := if f.kind = 1 then .belt else .roller
  transport := f.transport
  label := f.label.chars.take f.label.count
  weights := f.weights
  runWeight := f.runWeight
  jamWeight := f.jamWeight
  modeSet := f.modeSet
  advisory := f.advisory
  due := f.due
  limit := f.limit
  quota := f.quota
  group := if f.group = 255 then none else some f.group
  cost := f.cost
  policy := if f.policy = 1 then .hold else .none

/-- The fields of an ASSIGN are accepted exactly where they are in range and the settings they spell pass R2. -/
theorem settingsOf?_eq (f : SettingFields) :
    settingsOf? f =
      if f.kind ≤ 1 ∧ f.label.count ≤ 8 ∧ (f.group ≤ 63 ∨ f.group = 255) ∧ f.policy ≤ 1 ∧
          (Settings.ofFields f).ok = true then
        some (Settings.ofFields f)
      else none := by
  unfold settingsOf?
  rw [kindOf?_eq, labelOf?_eq, groupOf?_eq, policyOf?_eq]
  by_cases hk : f.kind ≤ 1
  case neg =>
    rw [if_neg hk]
    exact (if_neg fun h => hk h.1).symm
  by_cases hl : f.label.count ≤ 8 ∧ ∀ c ∈ f.label.chars.take f.label.count, 32 ≤ c.toNat ∧ c.toNat ≤ 126
  case neg =>
    rw [if_pos hk, if_neg hl]
    refine (if_neg ?_).symm
    rintro ⟨-, hc, -, -, hok⟩
    obtain ⟨-, hlabel, -⟩ := settings_ok_iff.1 hok
    exact hl ⟨hc, (labelOk_iff.1 hlabel).2⟩
  by_cases hg : f.group ≤ 63 ∨ f.group = 255
  case neg =>
    rw [if_pos hk, if_pos hl, if_neg hg]
    exact (if_neg fun h => hg h.2.2.1).symm
  by_cases hp : f.policy ≤ 1
  case neg =>
    rw [if_pos hk, if_pos hl, if_pos hg, if_neg hp]
    exact (if_neg fun h => hp h.2.2.2.1).symm
  rw [if_pos hk, if_pos hl, if_pos hg, if_pos hp]
  simp only [hk, hl.1, hg, hp, true_and]
  rfl

/-- The settings that the fields of a SET WEIGHTS leave of the old ones (R21, R180). -/
def Settings.withWeights (old : Settings) (f : WeightFields) : Settings :=
  { old with
    weights := f.weights
    runWeight := f.runWeight
    jamWeight := f.jamWeight
    modeSet := f.modeSet
    group := if f.group = 255 then none else some f.group
    cost := f.cost
    policy := if f.policy = 1 then .hold else .none
    label := f.label.chars.take f.label.count }

theorem weightsOf?_eq (f : WeightFields) (old : Settings) :
    weightsOf? f old =
      if modeSetOk f.modeSet = true ∧ (f.group ≤ 63 ∨ f.group = 255) ∧ 1 ≤ f.cost ∧ f.cost ≤ 8 ∧ f.policy ≤ 1 ∧
          f.label.count ≤ 8 ∧ ∀ c ∈ f.label.chars.take f.label.count, 32 ≤ c.toNat ∧ c.toNat ≤ 126 then
        some (old.withWeights f)
      else none := by
  unfold weightsOf?
  rw [labelOf?_eq, groupOf?_eq, policyOf?_eq]
  by_cases hl : f.label.count ≤ 8 ∧ ∀ c ∈ f.label.chars.take f.label.count, 32 ≤ c.toNat ∧ c.toNat ≤ 126
  case neg =>
    rw [if_neg hl]
    exact (if_neg fun h => hl h.2.2.2.2.2).symm
  by_cases hg : f.group ≤ 63 ∨ f.group = 255
  case neg =>
    rw [if_pos hl, if_neg hg]
    exact (if_neg fun h => hg h.2.1).symm
  by_cases hp : f.policy ≤ 1
  case neg =>
    rw [if_pos hl, if_pos hg, if_neg hp]
    exact (if_neg fun h => hp h.2.2.2.2.1).symm
  rw [if_pos hl, if_pos hg, if_pos hp]
  simp only [Bool.and_eq_true, decide_eq_true_eq, and_assoc, hg, hp, eq_true hl, and_true, true_and]
  rfl

/-! ### ASSIGN -/

theorem thresholdState_reachedAdvisory {a advisory due limit : Nat} :
    (thresholdState a advisory due limit).reachedAdvisory = decide (advisory ≤ a) := by
  unfold thresholdState
  split_ifs with h1 h2 h3
  · exact (decide_eq_false (Nat.not_le.2 h1)).symm
  all_goals exact (decide_eq_true (Nat.not_lt.1 h1)).symm

theorem thresholdState_reachedDue {a advisory due limit : Nat} (h : advisory < due) :
    (thresholdState a advisory due limit).reachedDue = decide (due ≤ a) := by
  unfold thresholdState
  split_ifs with h1 h2 h3
  · exact (decide_eq_false (by omega)).symm
  · exact (decide_eq_false (by omega)).symm
  all_goals exact (decide_eq_true (Nat.not_lt.1 h2)).symm

theorem entryState_reachedAdvisory (v : Settings) (a : Nat) :
    (v.entryState a).reachedAdvisory = decide (v.advisory ≤ a) := by
  unfold Settings.entryState
  split_ifs with h
  · have : a < v.advisory := of_decide_eq_true (Bool.and_eq_true_iff.1 h).2
    exact (decide_eq_false (Nat.not_le.2 this)).symm
  · exact thresholdState_reachedAdvisory

theorem entryState_reachedDue {v : Settings} (hv : v.advisory < v.due) (a : Nat) :
    (v.entryState a).reachedDue = decide (v.due ≤ a) := by
  unfold Settings.entryState
  split_ifs with h
  · have : a < v.advisory := of_decide_eq_true (Bool.and_eq_true_iff.1 h).2
    exact (decide_eq_false (by omega)).symm
  · exact thresholdState_reachedDue hv

theorem entryState_breakIn (v : Settings) (a : Nat) :
    v.entryState a = .breakIn ↔ 0 < v.quota ∧ a < v.advisory := by
  unfold Settings.entryState
  split_ifs with h
  · simpa using h
  · simpa [thresholdState_ne_breakIn] using h

/-- With fewer than two intervals closed a projection is NOW or UNKNOWN (R138). -/
theorem projected_new {f : Fitting} (h : f.intervals < 2) (L : Nat) (clock : Option Nat) :
    f.projected L clock = if f.state.reachedDue then .now else .unknown := by
  unfold Fitting.projected
  cases clock <;> simp [h]

/-- The record that an ASSIGN leaves: that of R13 with the flags and the projection that its evaluation sets (R14). -/
def Settings.assigned (v : Settings) (a : Nat) : Fitting :=
  { v.fitted a with
    milestones := ⟨v.advisory ≤ a, v.due ≤ a, v.limit ≤ a⟩
    projection := if v.due ≤ a then .now else .unknown }

/-- The evaluation of an accepted ASSIGN, field by field. -/
theorem fitted_settle {v : Settings} (hv : v.advisory < v.due) (a L : Nat) (clock : Option Nat) :
    (v.fitted a).settle (v.fitted a).state.reachedAdvisory false L clock =
      { fitting := v.assigned a
        levels := [Level.advised, .due, .limit].filter fun l => v.threshold l ≤ a
        moved := v.advisory ≤ a
        projectionMoved := v.due ≤ a } := by
  have hm : (v.fitted a).state.reachedAdvisory = decide (v.advisory ≤ a) := entryState_reachedAdvisory v a
  have hl : (v.fitted a).unreported = [Level.advised, .due, .limit].filter fun l => v.threshold l ≤ a :=
    List.filter_congr fun l _ => by cases l <;> exact Bool.and_true _
  have hp : (v.fitted a).projected L clock = if v.due ≤ a then .now else .unknown := by
    rw [projected_new (Nat.zero_lt_two), show (v.fitted a).state = v.entryState a from rfl,
      entryState_reachedDue hv]
    simp
  have hq : ∀ reported : Bool, (if (decide (v.advisory ≤ a) || false || reported) = true
      then (if v.due ≤ a then Projection.now else .unknown) else (v.fitted a).projection) =
      if v.due ≤ a then .now else .unknown := by
    intro reported
    by_cases hd : v.due ≤ a
    · rw [decide_eq_true (show v.advisory ≤ a by omega)]
      rfl
    · rw [if_neg hd, show (v.fitted a).projection = .unknown from rfl, ite_self]
  have hn : ((if v.due ≤ a then Projection.now else .unknown) != .unknown) = decide (v.due ≤ a) := by
    by_cases hd : v.due ≤ a <;> simp [hd]
  simp only [Fitting.settle, hm, hp, hq, hl, Evaluation.mk.injEq, true_and]
  exact ⟨rfl, hn⟩

/-- A hand-off overwrites the record at its place, and reads of it the generation alone. -/
theorem handOff_over (s : State) {i : Nat} (hi : i < 240) (g : BitVec 16) (f f' : Fitting) (w : WearEngine)
    (source : MilestoneSource) (minute : Option Nat) (ev : Evaluation) :
    State.handOff { s with elements := tset s.elements i ⟨g, .assigned f⟩, wear := w } ⟨i, source, minute⟩ ev =
      State.handOff { s with elements := tset s.elements i ⟨g, .assigned f'⟩, wear := w } ⟨i, source, minute⟩ ev := by
  have he : ∀ x, State.element { s with elements := tset s.elements i ⟨g, .assigned x⟩, wear := w } i =
      ⟨g, .assigned x⟩ := fun x => tget_tset_self _ _ _ hi
  simp only [State.handOff, State.reported, State.planNotice, State.arbiterOn, he, tset_tset]

/-- The record of R13 as the statement of ASSIGN writes it. -/
theorem assigned_eq (v : Settings) (a : Nat) :
    v.assigned a =
      { settings := v
        state := if decide (0 < v.quota ∧ a < v.advisory) then .breakIn
          else thresholdState a v.advisory v.due v.limit
        accumulator := a
        breakInRemaining := if decide (0 < v.quota ∧ a < v.advisory) then v.quota else 0
        passages := 0
        runMinutes := 0
        history := List.replicate 16 0
        intervals := 0
        milestones := ⟨v.advisory ≤ a, v.due ≤ a, v.limit ≤ a⟩
        waived := false
        intervalWear := 0
        projection := if v.due ≤ a then .now else .unknown } := by
  have hb : (if v.entryState a = .breakIn then v.quota else 0) =
      if decide (0 < v.quota ∧ a < v.advisory) then v.quota else 0 := by
    simp only [entryState_breakIn, decide_eq_true_eq]
  have hs : v.entryState a = if decide (0 < v.quota ∧ a < v.advisory) then .breakIn
      else thresholdState a v.advisory v.due v.limit := by
    rw [Settings.entryState, Bool.decide_and]
  rw [Settings.assigned, Settings.fitted, hb, hs]
  rfl

theorem assignElementWork_occupied {s : State} {n a : Nat} {fields : SettingFields} (hn : n ≤ 239)
    (hf : s.fitting? n ≠ none) : assignElementWork n fields a s = refuse s .elementState := by
  rw [assignElementWork, if_neg (Nat.not_lt.2 hn), if_pos (Option.isSome_iff_ne_none.2 hf)]

theorem assignElementWork_invalid {s : State} {n a : Nat} {fields : SettingFields} (hn : n ≤ 239)
    (hf : s.fitting? n = none) (hv : settingsOf? fields = none) :
    assignElementWork n fields a s = refuse s .badValue := by
  rw [assignElementWork, if_neg (Nat.not_lt.2 hn), if_neg (by simp [hf]), hv]

theorem assignElementWork_valid {s : State} {n a : Nat} {fields : SettingFields} {v : Settings} (hn : n ≤ 239)
    (hf : s.fitting? n = none) (hv : settingsOf? fields = some v) :
    assignElementWork n fields a s = accept (s.assign n v a)
      (u8 n ++ u8 (v.entryState a).code ++ u16 ((s.element n).generation + 1).toNat) := by
  rw [assignElementWork, if_neg (Nat.not_lt.2 hn), if_neg (by simp [hf]), hv]

/-- An accepted ASSIGN, with the record that it leaves in place before its evaluation is handed on. -/
theorem assign_eq {s : State} {n a : Nat} {v : Settings} (hn : n ≤ 239) (hv : v.advisory < v.due) :
    s.assign n v a =
      State.handOff
        { s with
          elements := tset s.elements n ⟨(s.element n).generation + 1, .assigned (v.assigned a)⟩
          wear := { s.wear with ring := if s.wear.watched = some n then [] else s.wear.ring } }
        ⟨n, .assign, s.clock⟩
        { fitting := v.assigned a
          levels := [Level.advised, .due, .limit].filter fun l => v.threshold l ≤ a
          moved := v.advisory ≤ a
          projectionMoved := v.due ≤ a } := by
  rw [State.assign, fitted_settle hv, State.fit, fittingNotice_eq]
  exact handOff_over s (Nat.lt_succ_of_le hn) _ _ _ _ _ _ _

/-- The settings that pass R2, with the checks of the label, the mode set and the thresholds written out. -/
theorem settings_ok_iff_checks {v : Settings} :
    v.ok = true ↔
      v.transport ≤ 31 ∧ v.label.length ≤ 8 ∧ (∀ c ∈ v.label, 32 ≤ c.toNat ∧ c.toNat ≤ 126) ∧
        v.modeSet ≠ 0 ∧ (∀ mode < 8, v.modeSet.getLsbD mode = true → 1 ≤ mode ∧ mode ≤ 4) ∧
        1 ≤ v.advisory ∧ v.advisory < v.due ∧ v.due < v.limit ∧ v.limit ≤ 4000000000 ∧
        (∀ g, v.group = some g → g ≤ 63) ∧ 1 ≤ v.cost ∧ v.cost ≤ 8 := by
  rw [settings_ok_iff, labelOk_iff, modeSetOk_iff, thresholdsOk_iff]
  simp only [and_assoc]

/-- Settles O15: the work by its branches, the accepted values by `settingsOf?_eq`, their checks by R2. -/
theorem assignElement : Obligations.AssignElement := by
  refine ⟨fun s code n fields a hs => ⟨fun hn => request_refuses hs (if_pos hn),
    fun hn hf => request_refuses hs (assignElementWork_occupied hn hf),
    fun hn hf hv => request_refuses hs (assignElementWork_invalid hn hf hv), fun v hn hf hv => ?_⟩,
    fun fields v => ?_, fun v => settings_ok_iff_checks⟩
  · obtain ⟨-, -, -, -, -, -, hd, -⟩ := settings_ok_iff_checks.1 (settingsOf?_ok hv)
    refine (request_accepts hs (assignElementWork_valid hn hf hv)).trans ?_
    rw [assign_eq hn hd, show (v.entryState a).code = (v.assigned a).state.code from rfl, assigned_eq]
  · rw [settingsOf?_eq, Option.ite_none_right_eq_some, Option.some.injEq]
    constructor
    · rintro ⟨⟨hk, hl, hg, hp, hok⟩, rfl⟩
      exact ⟨hok, hk, hl, hg, hp, rfl⟩
    · rintro ⟨hok, hk, hl, hg, hp, rfl⟩
      exact ⟨⟨hk, hl, hg, hp, hok⟩, rfl⟩

/-! ### SET WEIGHTS -/

theorem setWeightsWork_unassigned {s : State} {n : Nat} {fields : WeightFields} (hn : n ≤ 239)
    (hf : s.fitting? n = none) : setWeightsWork n fields s = refuse s .elementState := by
  rw [setWeightsWork, if_neg (Nat.not_lt.2 hn), hf]

theorem setWeightsWork_invalid {s : State} {n : Nat} {fields : WeightFields} {f : Fitting} (hn : n ≤ 239)
    (hf : s.fitting? n = some f) (hv : weightsOf? fields f.settings = none) :
    setWeightsWork n fields s = refuse s .badValue := by
  rw [setWeightsWork, if_neg (Nat.not_lt.2 hn), hf]
  simp only [hv]

theorem setWeightsWork_valid {s : State} {n : Nat} {fields : WeightFields} {f : Fitting} {v : Settings}
    (hn : n ≤ 239) (hf : s.fitting? n = some f) (hv : weightsOf? fields f.settings = some v) :
    setWeightsWork n fields s = accept (s.reweigh n f v) (u8 n) := by
  rw [setWeightsWork, if_neg (Nat.not_lt.2 hn), hf]
  simp only [hv]

/-- A service cost that stays goes to nobody (R22). -/
theorem recost_same {s : State} {n old new : Nat} (h : old = new) : s.recost n old new = s := if_pos h

theorem recost_changed {s : State} {n old new : Nat} (h : old ≠ new) :
    s.recost n old new = s.takePlan (s.plan.costNotice n new) := if_neg h

/-- Settles O19: the work by its branches, the accepted values by `weightsOf?_eq`. -/
theorem setWeights : Obligations.SetWeights := by
  refine ⟨fun s code n fields hs => ⟨fun hn => request_refuses hs (if_pos hn),
    fun hn hf => request_refuses hs (setWeightsWork_unassigned hn hf),
    fun f hn hf hv => request_refuses hs (setWeightsWork_invalid hn hf hv), fun f v hn hf hv => ?_⟩,
    fun fields old v => ?_⟩
  · have hr := request_accepts hs (setWeightsWork_valid hn hf hv)
    refine ⟨fun hc => hr.trans ?_, fun hc => hr.trans ?_⟩
    · rw [State.reweigh, recost_same hc.symm]
      rfl
    · rw [State.reweigh, recost_changed (Ne.symm hc)]
      rfl
  · dsimp only
    rw [weightsOf?_eq, Option.ite_none_right_eq_some, Option.some.injEq, modeSetOk_iff]
    constructor
    · rintro ⟨⟨⟨hm, hm'⟩, hg, hc, hc', hp, hl, hl'⟩, rfl⟩
      exact ⟨hm, hm', hg, hc, hc', hp, hl, hl', rfl⟩
    · rintro ⟨hm, hm', hg, hc, hc', hp, hl, hl', rfl⟩
      exact ⟨⟨⟨hm, hm'⟩, hg, hc, hc', hp, hl, hl'⟩, rfl⟩

end Sys2Proof.Machine
end

section
/-! Evaluations: the threshold state, the state after a charge, the levels reported, the capture, and what is handed on
(R6 to R11, R14, R20, R51, R52). -/

namespace Sys2Proof.Machine

/-! ### The state after a charge (R6 to R8) -/

theorem thresholdState_service {a advisory due limit : Nat} (h : a < advisory) :
    thresholdState a advisory due limit = .service := if_pos h

theorem thresholdState_advised {a advisory due limit : Nat} (h : advisory ≤ a) (h' : a < due) :
    thresholdState a advisory due limit = .advised := by
  rw [thresholdState, if_neg (Nat.not_lt.2 h), if_pos h']

theorem thresholdState_due {a advisory due limit : Nat} (h0 : advisory < due) (h : due ≤ a) (h' : a < limit) :
    thresholdState a advisory due limit = .due := by
  rw [thresholdState, if_neg (by omega), if_neg (Nat.not_lt.2 h), if_pos h']

theorem thresholdState_limit {a advisory due limit : Nat} (h0 : advisory < due) (h1 : due < limit) (h : limit ≤ a) :
    thresholdState a advisory due limit = .limit := by
  rw [thresholdState, if_neg (by omega), if_neg (by omega), if_neg (Nat.not_lt.2 h)]

variable {f : Fitting}

/-- Below advisory a break-in goes on, or ends with its last passage (R7). -/
theorem afterCharge_beds (passage : Bool) (hb : f.state = .breakIn) (ha : f.accumulator < f.settings.advisory) :
    f.afterCharge passage =
      { f with state := if passage = true ∧ f.breakInRemaining = 0 then .service else .breakIn } := by
  unfold Fitting.afterCharge
  simp only [hb, if_pos ha, Bool.and_eq_true, beq_iff_eq]
  split_ifs
  · rfl
  · rw [← hb]

/-- A break-in ends at advisory (R8). -/
theorem afterCharge_ends (passage : Bool) (hb : f.state = .breakIn) (ha : f.settings.advisory ≤ f.accumulator) :
    f.afterCharge passage = { f with state := f.thresholdState, breakInRemaining := 0 } := by
  unfold Fitting.afterCharge
  simp only [hb, if_neg (Nat.not_lt.2 ha)]

/-- After the break-in the threshold state holds (R6). -/
theorem afterCharge_past (passage : Bool) (hb : f.state ≠ .breakIn) :
    f.afterCharge passage = { f with state := f.thresholdState } := by
  unfold Fitting.afterCharge
  split
  · exact absurd (by assumption) hb
  all_goals rfl

/-- Going to SERVICE by the end of break-in is no move (R7, R8, R10). -/
theorem evaluate_eq (f : Fitting) (passage : Bool) (L : Nat) (clock : Option Nat) :
    f.evaluate passage L clock =
      (f.afterCharge passage).settle
        (decide ((f.afterCharge passage).state ≠ f.state ∧
          ¬(f.state = .breakIn ∧ (f.afterCharge passage).state = .service))) false L clock := by
  unfold Fitting.evaluate
  dsimp only
  congr 1
  generalize (f.afterCharge passage).state = st
  cases f.state <;> cases st <;> rfl

/-- What a charge's evaluation leaves of an account beside its state, break-in, milestones and projection. -/
theorem evaluate_account (f : Fitting) (passage : Bool) (L : Nat) (clock : Option Nat) :
    { (f.evaluate passage L clock).fitting with
      state := f.state
      breakInRemaining := f.breakInRemaining
      milestones := f.milestones
      projection := f.projection } = f := by
  have h := afterCharge_account f passage
  rw [evaluate_eq]
  conv_rhs => rw [← h]
  simp only [settle_account, afterCharge_milestones, afterCharge_projection]

/-! ### Levels and the capture (R9, R51) -/

theorem reportedFlags_reported (f : Fitting) (l : Level) :
    f.reportedFlags.reported l = (f.milestones.reported l || decide (f.settings.threshold l ≤ f.accumulator)) := by
  cases l <;> rfl

theorem matches_iff (t : Trigger) (i : Nat) (l : Level) :
    t.matches i l = true ↔
      (t.level = .advised ∨ t.level = l ∨ l = .limit) ∧ (t.scope = none ∨ t.scope = some i) := by
  obtain ⟨level, scope⟩ := t
  have hl : level.rank ≤ l.rank ↔ level = .advised ∨ level = l ∨ l = .limit := by
    cases level <;> cases l <;> decide
  have hs : (match scope with | none => true | some j => j == i) = true ↔ scope = none ∨ scope = some i := by
    cases scope <;> simp
  rw [Trigger.matches, Bool.and_eq_true, decide_eq_true_eq, hl]
  exact and_congr_right fun _ => hs

theorem offer_unarmed {cap : Capture} (h : ∀ t, cap ≠ .armed t) (record : CaptureRecord) :
    cap.offer record = (cap, []) := by
  cases cap with
  | armed t => exact absurd rfl (h t)
  | disarmed => rfl
  | filled t r => rfl

/-- A capture that is not armed takes none of the levels. -/
theorem reportLevels_unarmed (record : Level → CaptureRecord) {cap : Capture} (h : ∀ t, cap ≠ .armed t)
    (levels : List Level) :
    reportLevels record cap levels = (cap, levels.map fun l => .raised l.alert (record l).element) := by
  induction levels with
  | nil => rfl
  | cons l ls ih =>
    rw [reportLevels, offer_unarmed h, ih]
    rfl

/-- An armed capture takes a level that matches, and then none of the others. -/
theorem reportLevels_takes (record : Level → CaptureRecord) {t : Trigger} {l : Level} (rest : List Level)
    (h : t.matches (record l).element (record l).level = true) :
    reportLevels record (.armed t) (l :: rest) =
      (.filled t (record l),
        .raised l.alert (record l).element :: .raised .captureTaken (record l).element ::
          rest.map fun l => .raised l.alert (record l).element) := by
  have ho : (Capture.armed t).offer (record l) =
      (.filled t (record l), [.raised .captureTaken (record l).element]) := if_pos h
  rw [reportLevels, ho, reportLevels_unarmed record (fun _ => Capture.noConfusion)]
  rfl

/-- An armed capture passes over a level that does not match. -/
theorem reportLevels_passes (record : Level → CaptureRecord) {t : Trigger} {l : Level} (rest : List Level)
    (h : t.matches (record l).element (record l).level = false) :
    reportLevels record (.armed t) (l :: rest) =
      ((reportLevels record (.armed t) rest).1,
        .raised l.alert (record l).element :: (reportLevels record (.armed t) rest).2) := by
  have ho : (Capture.armed t).offer (record l) = (.armed t, []) := if_neg (Bool.eq_false_iff.1 h)
  rw [reportLevels, ho]
  rfl

/-- Settles O43, from the rules of states, levels and the capture above. -/
theorem chargeEvaluated : Obligations.ChargeEvaluated := by
  refine ⟨fun a advisory due limit h0 h1 => ⟨thresholdState_service, thresholdState_advised, thresholdState_due h0,
    thresholdState_limit h0 h1⟩, fun f passage => ⟨fun hb ha => ?_, fun hb ha => ?_, fun hb => ?_,
    afterCharge_account f passage⟩, fun f moved always L clock => ⟨rfl, reportedFlags_reported f, ?_, rfl,
    bne_eq_decide_ne _ _, rfl⟩, fun f passage L clock => evaluate_eq f passage L clock, matches_iff,
    fun record cap levels h => reportLevels_unarmed record h levels,
    fun record t l rest => ⟨rfl, reportLevels_takes record rest, reportLevels_passes record rest⟩⟩
  · rw [afterCharge_beds passage hb ha]
    exact ⟨rfl, rfl⟩
  · rw [afterCharge_ends passage hb ha]
    exact ⟨rfl, rfl⟩
  · rw [afterCharge_past passage hb]
    exact ⟨rfl, rfl⟩
  · refine if_congr ?_ rfl rfl
    simp only [settle_levels, Bool.or_eq_true, decide_eq_true_eq, or_assoc]

/-! ### Hand-offs (R10, R14, R20) -/

variable {s : State} {ev : Evaluation}

/-- What a hand-off changes, with its plan notice given. -/
theorem handOff_eq (o : Offer) {plan : PlanUnit} {planAlerts : List AlertEvent}
    (h : s.planNotice o.element ev = (plan, planAlerts)) :
    s.handOff o ev =
      { s with
        elements := tset s.elements o.element ⟨(s.element o.element).generation, .assigned ev.fitting⟩
        wear := { s.wear with capture := (s.reported o ev).1 }
        plan := plan
        hold := if ev.moved = true ∧ ev.fitting.state = .limit then
            s.hold.reevaluate (decide (s.engine ≠ .starting))
              (wishOf (tset s.elements o.element ⟨(s.element o.element).generation, .assigned ev.fitting⟩)
                ev.fitting.settings.transport) ev.fitting.settings.transport
          else s.hold
        alerts := s.alerts.takeAll ((s.reported o ev).2 ++ planAlerts) } := by
  simp only [State.handOff, h, State.arbiterOn, bne_eq_decide_ne, Bool.and_eq_true, beq_iff_eq]

theorem planNotice_milestone {i : Nat} {r : Reason} (hm : ev.moved = true)
    (hr : ev.fitting.state.reason? = some r) :
    s.planNotice i ev =
      s.plan.milestoneNotice s.clock
        { element := i, generation := (s.element i).generation, reason := r, due := ev.fitting.projection,
          cost := ev.fitting.settings.cost } := by
  simp only [State.planNotice, hm, hr]

theorem planNotice_other {i : Nat} (h : ev.moved = false ∨ ev.fitting.state.reason? = none) :
    s.planNotice i ev =
      if ev.projectionMoved then (s.plan.projectionNotice s.clock i ev.fitting.projection, []) else (s.plan, []) := by
  unfold State.planNotice
  split
  · rename_i hm hr
    rcases h with h | h
    · rw [hm] at h; cases h
    · rw [hr] at h; cases h
  · rfl

/-- A transport wishes a hold while one of its LIMIT elements has the policy HOLD and is not waived (R11). -/
theorem wishOf_iff (es : Vector Element 240) (t : Nat) :
    wishOf es t = true ↔ ∃ i < 240, ∃ f, (tget es i .vacant).position = .assigned f ∧ f.state = .limit ∧
      f.settings.transport = t ∧ f.settings.policy = .hold ∧ f.waived = false := by
  rw [wishOf, any_tlist _ .vacant]
  refine exists_congr fun i => and_congr_right fun _ => ?_
  cases (tget es i .vacant).position <;> simp [and_assoc]

/-- Settles O44: `handOff_eq` with each of the three plan notices. -/
theorem evaluationHandedOn : Obligations.EvaluationHandedOn := by
  intro s o ev
  have hr : (match ev.fitting.state with
      | .advised => some Reason.advised
      | .due => some .due
      | .limit => some .limit
      | .breakIn | .service => none) = ev.fitting.state.reason? := by
    cases ev.fitting.state <;> rfl
  refine ⟨fun r hm h => ?_, fun h => ⟨fun hp => ?_, fun hp => ?_⟩, fun es => wishOf_iff es _⟩
  · exact handOff_eq o (planNotice_milestone hm (hr ▸ h))
  · refine handOff_eq o ((planNotice_other (hr ▸ h)).trans ?_)
    rw [hp]
    rfl
  · refine handOff_eq o ((planNotice_other (hr ▸ h)).trans ?_)
    rw [hp]
    rfl

end Sys2Proof.Machine
end

section
/-! Charges: one position of an item's path, and the run and jam charges of one element (R31, R34 to R39, R42, R44,
R48). -/

namespace Sys2Proof.Machine

/-- The entry of a watched element joins its ring (R48). -/
theorem watchCharge_eq (w : WearEngine) (i : Nat) (e : WatchEntry) :
    w.watchCharge i e =
      { w with ring := if w.watched = some i then w.ring.drop (w.ring.length - 15) ++ [e] else w.ring } := by
  unfold WearEngine.watchCharge
  by_cases h : w.watched = some i <;> simp [h, joinRing]

/-- A charge, handed on: the charged record's evaluation, with the entry of the watch ring. -/
theorem applyCharge_handOff {s : State} {i : Nat} {f g : Fitting} {c : Charge} (hg : f.charge c = g) :
    s.applyCharge i f c =
      State.handOff
        { s with wear := { s.wear with
            ring := if s.wear.watched = some i then
              s.wear.ring.drop (s.wear.ring.length - 15) ++ [⟨c.watchSource, c.units, g.accumulator⟩]
            else s.wear.ring } }
        ⟨i, c.source, c.minute⟩ (g.evaluate c.isItem s.options.intervalLength s.clock) := by
  rw [applyCharge_eq, watchCharge_eq, hg]

/-! ### State and break-in after an evaluation (R6 to R8) -/

variable {g : Fitting} {passage : Bool} {L : Nat} {clock : Option Nat}

theorem evaluate_beds (hb : g.state = .breakIn) (ha : g.accumulator < g.settings.advisory) :
    (g.evaluate passage L clock).fitting.breakInRemaining = g.breakInRemaining ∧
      (g.evaluate passage L clock).fitting.state =
        if passage = true ∧ g.breakInRemaining = 0 then .service else .breakIn := by
  rw [evaluate_breakInRemaining, evaluate_state, afterCharge_beds passage hb ha]
  exact ⟨rfl, rfl⟩

theorem evaluate_ends (hb : g.state = .breakIn) (ha : g.settings.advisory ≤ g.accumulator) :
    (g.evaluate passage L clock).fitting.breakInRemaining = 0 := by
  rw [evaluate_breakInRemaining, afterCharge_ends passage hb ha]

theorem evaluate_past (hb : g.state ≠ .breakIn) :
    (g.evaluate passage L clock).fitting.breakInRemaining = g.breakInRemaining := by
  rw [evaluate_breakInRemaining, afterCharge_past passage hb]

/-- Past its break-in, or at advisory, an element is in the threshold state of its accumulator. -/
theorem evaluate_threshold (h : g.state ≠ .breakIn ∨ g.settings.advisory ≤ g.accumulator) :
    (g.evaluate passage L clock).fitting.state = g.thresholdState := by
  rw [evaluate_state]
  by_cases hb : g.state = .breakIn
  · rw [afterCharge_ends passage hb (h.resolve_left (not_not_intro hb))]
  · rw [afterCharge_past passage hb]

/-! ### Items -/

theorem chargePosition_unassigned {s : State} {it : Item} {i : Nat} {ts : List Nat} (h : s.fitting? i = none) :
    chargePosition it (s, ts) i = (s, ts) := by
  simp only [chargePosition, h]

theorem chargePosition_skips {s : State} {it : Item} {i : Nat} {ts : List Nat} {f : Fitting}
    (h : s.fitting? i = some f) (hm : s.wear.mode.counts f.settings.modeSet = false) :
    chargePosition it (s, ts) i = (s, ts) := by
  simp only [chargePosition, h, hm]
  rfl

theorem chargePosition_charges {s : State} {it : Item} {i : Nat} {ts : List Nat} {f : Fitting}
    (h : s.fitting? i = some f) (hm : s.wear.mode.counts f.settings.modeSet = true) :
    chargePosition it (s, ts) i =
      (s.applyCharge i f ⟨it.source, s.itemUnits it f, s.clock⟩, f.settings.transport :: ts) := by
  simp only [chargePosition, h, hm, if_true]

/-- The account with an item's charge added (R37). -/
theorem charge_item (f : Fitting) (it : Item) (units : Nat) (minute : Option Nat) :
    f.charge ⟨it.source, units, minute⟩ =
      { f with
        accumulator := min (f.accumulator + units) 4294967295
        intervalWear := min (f.intervalWear + units) 4294967295
        passages := min (f.passages + 1) 4294967295
        breakInRemaining := if f.state = .breakIn then f.breakInRemaining - 1 else f.breakInRemaining } := by
  simp only [Fitting.charge, Item.source, satAdd, beq_iff_eq]

/-- Settles O41: a charge handed on, and the state of its evaluation by the cases of R6 to R8. -/
theorem itemCharge : Obligations.ItemCharge := by
  intro s it i ts
  refine ⟨chargePosition_unassigned, fun f hf hm => chargePosition_skips hf hm, fun f hf hm => ?_⟩
  intro units g ring ev h
  have hg : f.charge ⟨it.source, units, s.clock⟩ = g := charge_item f it units s.clock
  refine ⟨?_, evaluate_account g true _ _, fun hb ha => ?_, fun hb ha => evaluate_ends hb ha, fun hb => ?_,
    fun h => evaluate_threshold (g := g) h⟩
  · rw [chargePosition_charges hf hm]
    exact congrArg (·, f.settings.transport :: ts) (applyCharge_handOff hg)
  · have hr : g.breakInRemaining = f.breakInRemaining - 1 := if_pos hb
    obtain ⟨hrem, hst⟩ := evaluate_beds (passage := true) (L := s.options.intervalLength) (clock := s.clock)
      (show g.state = .breakIn from hb) ha
    refine ⟨hrem.trans hr, hst.trans (if_congr ?_ rfl rfl)⟩
    simp only [hr, true_and]
    omega
  · have hr : g.breakInRemaining = f.breakInRemaining := if_neg hb
    exact (evaluate_past (g := g) hb).trans hr

/-! ### Run and jam charges -/

variable {s : State} {i : Nat}

theorem runCharge_unassigned (carried : Option Nat) (h : s.fitting? i = none) : runCharge carried s i = s := by
  simp only [runCharge, h]

theorem jamCharge_unassigned (t severity : Nat) (h : s.fitting? i = none) : jamCharge t severity s i = s := by
  simp only [jamCharge, h]

variable {f : Fitting}

theorem runCharge_charges (carried : Option Nat) (h : s.fitting? i = some f)
    (hr : (s.transport f.settings.transport).running = true)
    (hm : s.wear.mode.counts f.settings.modeSet = true) :
    runCharge carried s i = s.applyCharge i f ⟨.run, f.settings.runWeight * s.slipFactor f, carried⟩ := by
  simp only [runCharge, h, hr, hm, Bool.and_self, if_true]

theorem runCharge_skips (carried : Option Nat) (h : s.fitting? i = some f)
    (hs : (s.transport f.settings.transport).running = false ∨ s.wear.mode.counts f.settings.modeSet = false) :
    runCharge carried s i = s := by
  simp only [runCharge, h]
  refine if_neg ?_
  rcases hs with hs | hs <;> simp [hs]

theorem jamCharge_charges (severity : Nat) (h : s.fitting? i = some f)
    (hm : s.wear.mode.counts f.settings.modeSet = true) :
    jamCharge f.settings.transport severity s i =
      s.applyCharge i f ⟨.jam, f.settings.jamWeight * severity, s.clock⟩ := by
  simp only [jamCharge, h, hm, beq_self_eq_true, Bool.and_self, if_true]

theorem jamCharge_skips {t : Nat} (severity : Nat) (h : s.fitting? i = some f)
    (hs : t ≠ f.settings.transport ∨ s.wear.mode.counts f.settings.modeSet = false) :
    jamCharge t severity s i = s := by
  simp only [jamCharge, h]
  refine if_neg ?_
  rcases hs with hs | hs
  · simp [hs.symm]
  · simp [hs]

/-- A run or a jam charge leaves the break-in as it is, but for its end at advisory (R8, R39, R42). -/
theorem evaluate_without_passage {g : Fitting} (hv : g.settings = f.settings) (hs : g.state = f.state)
    (hr : g.breakInRemaining = f.breakInRemaining) (L : Nat) (clock : Option Nat) :
    let h := (g.evaluate false L clock).fitting
    { h with
      state := g.state
      breakInRemaining := g.breakInRemaining
      milestones := g.milestones
      projection := g.projection } = g ∧
    (f.state = .breakIn → g.accumulator < f.settings.advisory →
      h.state = .breakIn ∧ h.breakInRemaining = f.breakInRemaining) ∧
    (f.state = .breakIn → f.settings.advisory ≤ g.accumulator → h.breakInRemaining = 0) ∧
    (f.state ≠ .breakIn → h.breakInRemaining = f.breakInRemaining) ∧
    (f.state ≠ .breakIn ∨ f.settings.advisory ≤ g.accumulator →
      h.state = thresholdState g.accumulator f.settings.advisory f.settings.due f.settings.limit) := by
  rw [← hv, ← hs, ← hr]
  refine ⟨evaluate_account g false L clock, fun hb ha => ?_, evaluate_ends, evaluate_past, evaluate_threshold⟩
  obtain ⟨hrem, hst⟩ := evaluate_beds (passage := false) (L := L) (clock := clock) hb ha
  exact ⟨hst.trans (if_neg fun h => Bool.false_ne_true h.1), hrem⟩

/-- Settles O42: both charges are evaluations without a passage. -/
theorem runAndJamCharge : Obligations.RunAndJamCharge := by
  intro s i
  refine ⟨fun h carried t severity => ⟨runCharge_unassigned carried h, jamCharge_unassigned t severity h⟩,
    fun f hf => ⟨fun carried hr hm => ⟨?_, ?_⟩, fun carried hs => runCharge_skips carried hf hs,
      fun severity hm => ⟨?_, ?_⟩, fun t severity hs => jamCharge_skips severity hf hs⟩⟩
  · exact (runCharge_charges carried hf hr hm).trans (applyCharge_handOff rfl)
  · exact evaluate_without_passage rfl rfl rfl _ _
  · exact (jamCharge_charges severity hf hm).trans (applyCharge_handOff rfl)
  · exact evaluate_without_passage rfl rfl rfl _ _

end Sys2Proof.Machine
end

section
/-! The reads that name a place: an element, a page of elements, a route, a transport, interval counts, a page of the
plan, a page of windows (R23, R24, R69, R89, R90, R161, R162, R180). -/

namespace Sys2Proof.Machine

variable {s : State} {code : Byte} {i : Instr} {work : State → Answer}

/-- A read that its block answers with OK and these bytes, and nothing else. -/
theorem request_reads {bytes payload : List Byte} (h : s.serving i code) (hw : work s = accept s bytes)
    (hb : bytes = payload) : s.request i work = .next (s.withReply code .ok payload .nothing).arbitrate :=
  request_accepts h (hb ▸ hw)

/-! ### READ ELEMENT and LIST ELEMENTS (R23, R24) -/

theorem elementBytes_vacant {n : Nat} {e : Element} (h : e.position = .vacant) :
    elementBytes n e = u8 n ++ u8 0 ++ u16 e.generation.toNat := by
  simp only [elementBytes, Element.stateCode, Element.fitting?, h, List.append_nil]

theorem elementBytes_suspect {n : Nat} {e : Element} (h : e.position = .suspect) :
    elementBytes n e = u8 n ++ u8 1 ++ u16 e.generation.toNat := by
  simp only [elementBytes, Element.stateCode, Element.fitting?, h, List.append_nil]

theorem elementBytes_assigned {n : Nat} {e : Element} {f : Fitting} (h : e.position = .assigned f) :
    elementBytes n e = u8 n ++ u8 f.state.code ++ u16 e.generation.toNat ++ f.bytes := by
  simp only [elementBytes, Element.stateCode, Element.fitting?, h]

theorem listOk_iff {first transport : Nat} {filter : BitVec 8} :
    listOk first filter transport = true ↔
      first ≤ 239 ∧ filter ≠ 0 ∧ filter.msb = false ∧ (transport ≤ 31 ∨ transport = 255) := by
  simp [listOk, lastElement, and_assoc]

/-- The next index of a page, in its one byte (R24). -/
theorem nextIndex_bytes (e : Nat → Element) (page : List Nat) :
    indexOrNone (nextIndex (page.map fun i => (e i, i))) =
      match page[7]? with
      | some i => if i < 239 then u8 (i + 1) else u8 255
      | none => u8 255 := by
  rw [nextIndex, List.getElem?_map]
  cases page[7]? with
  | none => rfl
  | some i =>
    show indexOrNone (if i < 239 then some (i + 1) else none) = if i < 239 then u8 (i + 1) else u8 255
    split_ifs <;> rfl

/-! ### READ ROUTE (R69) -/

theorem pathBytes_eq (p : List Nat) : pathBytes p = u8 p.length ++ p.flatMap u8 := by
  rw [pathBytes, map_ofNat_eq_u8]

theorem selected?_route (m : RouteMap) {n : Nat} (h : n ≤ 31) : m.selected? n = some (m.routeBytes n) := if_pos h

theorem selected?_common (m : RouteMap) : m.selected? 0x40 = some (pathBytes m.commonPath) := rfl

theorem selected?_masks (m : RouteMap) :
    m.selected? 0x41 = some ((tlist m.masks).flatMap fun v => u16 v.toNat) := rfl

theorem selected?_none (m : RouteMap) {n : Nat} (h : 31 < n) (h' : n ≠ 0x40) (h'' : n ≠ 0x41) :
    m.selected? n = none := by
  rw [RouteMap.selected?, if_neg (Nat.not_le.2 h), if_neg h', if_neg h'']

/-- What READ ROUTE does with a selector that the map answers. -/
theorem readRoute_reads {n : Nat} {bytes payload : List Byte} (h : s.serving (.readRoute n) code)
    (hr : s.routes.selected? n = some bytes) (hb : bytes = payload) :
    Replies (.readRoute n) s code s .ok payload :=
  request_reads h (by rw [hr]) hb

/-! ### READ TRANSPORT and READ INTERVAL COUNTS (R89, R90) -/

/-- The last sample, its classification before its fields (R89; notes/assumptions/14.md). -/
theorem sampleBytes_eq (last : Option Sample) :
    sampleBytes last =
      match last with
      | none => u8 0
      | some ⟨drive, belt, .invalid⟩ => u8 1 ++ u16 drive ++ u16 belt
      | some ⟨drive, belt, .idle⟩ => u8 2 ++ u16 drive ++ u16 belt
      | some ⟨drive, belt, .evaluated perMille⟩ => u8 3 ++ u16 drive ++ u16 belt ++ u16 perMille := by
  rcases last with _ | ⟨drive, belt, _ | _ | perMille⟩
  · rfl
  · exact List.append_nil _
  · exact List.append_nil _
  · rfl

theorem runOk_iff {first number : Nat} :
    runOk first number = true ↔ first ≤ 31 ∧ 1 ≤ number ∧ number ≤ 8 ∧ first + number ≤ 32 := by
  simp [runOk, lastTransport, and_assoc]

/-! ### READ PLAN and READ WINDOWS (R161, R162) -/

theorem nextPosition_bytes (p : PlanUnit) (first : Nat) :
    indexOrNone (p.nextPosition first) = u8 (if first + 8 < p.queue.length then first + 8 else 255) := by
  rw [PlanUnit.nextPosition]
  split_ifs <;> rfl

theorem nextSlot_bytes (first : Nat) :
    indexOrNone (if first + 4 < 8 then some (first + 4) else none) = u8 (if first + 4 < 8 then first + 4 else 255) := by
  split_ifs <;> rfl

/-- One slot of a page of windows. -/
theorem windowBytes_eq (p : PlanUnit) (k : Nat) :
    p.windowBytes k =
      match p.window k with
      | none => u8 0
      | some w =>
          u8 1 ++ u32 w.start ++ u16 w.length ++ u32 (w.start + w.length) ++ u8 w.capacity ++ u8 w.used ++
            u8 w.pinnedLoad ++ u8 (p.queue.countP fun e => e.window == some k) := by
  rw [PlanUnit.windowBytes]
  cases p.window k <;> rfl

/-- Settles O10: each read's bytes, by its own lemma above; the codes of R180 are computed. -/
theorem indexedReads : Obligations.IndexedReads := by
  refine ⟨fun s code n => ⟨?element, ?elements, ?route, ?transport, ?intervals, ?plan, ?windows⟩, ?label,
    fun _ => ⟨rfl, rfl, rfl, rfl⟩, rfl, rfl, rfl, rfl, rfl, rfl⟩
  case element =>
    refine fun hs => ⟨fun hn => request_refuses hs (if_pos hn), fun hn => ⟨fun h => ?_, fun h => ?_, fun f h => ?_⟩⟩
    · exact request_reads hs (if_neg (Nat.not_lt.2 hn)) (elementBytes_vacant h)
    · exact request_reads hs (if_neg (Nat.not_lt.2 hn)) (elementBytes_suspect h)
    · refine request_reads hs (if_neg (Nat.not_lt.2 hn)) ((elementBytes_assigned h).trans ?_)
      simp only [Fitting.bytes, Settings.bytes, weightBytes, Milestones.bytes, flag, List.append_assoc]
  case elements =>
    refine fun filter transport hs => ⟨fun h => request_refuses hs (if_neg ?_), fun hn h0 hm ht => ?_⟩
    · rw [listOk_iff]
      rintro ⟨h1, h2, h3, h4⟩
      rcases h with h | h | h | h
      · omega
      · exact h2 h
      · exact Bool.false_ne_true (h3.symm.trans h)
      · omega
    · refine request_reads hs (if_pos (listOk_iff.2 ⟨hn, h0, hm, ht⟩)) ?_
      rw [listPage_eq_range, nextIndex_bytes, List.length_map, List.flatMap_map]
      rfl
  case route =>
    refine fun hs => ⟨fun hn => readRoute_reads hs (selected?_route _ hn) ?_, ?_, ?_, fun h1 h2 h3 =>
      request_refuses hs (by rw [selected?_none _ h1 h2 h3])⟩
    · rw [RouteMap.routeBytes, pathBytes_eq]
      rfl
    · rintro rfl
      exact readRoute_reads hs (selected?_common _) (pathBytes_eq _)
    · rintro rfl
      exact readRoute_reads hs (selected?_masks _) rfl
  case transport =>
    refine fun hs => ⟨fun hn => request_refuses hs (if_pos hn), fun hn =>
      request_reads hs (if_neg (Nat.not_lt.2 hn)) ?_⟩
    rw [State.transportBytes, sampleBytes_eq, elementsOn_eq_range]
    rfl
  case intervals =>
    refine fun number hs => ⟨fun h => request_refuses hs (if_neg ?_), fun h1 h2 h3 h4 =>
      request_reads hs (if_pos (runOk_iff.2 ⟨h1, h2, h3, h4⟩)) rfl⟩
    rw [runOk_iff]
    omega
  case plan =>
    refine fun hs => ⟨fun hn => request_refuses hs (if_pos hn), fun hn =>
      request_reads hs (if_neg (Nat.not_lt.2 hn)) ?_⟩
    rw [State.planBytes, nextPosition_bytes]
    rfl
  case windows =>
    refine fun hs => ⟨fun hn => request_refuses hs (if_pos hn), fun hn =>
      request_reads hs (if_neg (Nat.not_lt.2 hn)) ?_⟩
    rw [PlanUnit.windowsBytes, nextSlot_bytes, funext (windowBytes_eq _)]
    rfl
  case label =>
    intro l hl
    rw [labelReply, List.take_of_length_le hl]

end Sys2Proof.Machine
end

section
/-! The restore: what each slot restores, the stale count, the alerts and the outcome, and which records are valid (R25,
R163 to R165, R173, R174). -/

namespace Sys2Proof.Machine

/-! ### Slots (R163, R173) -/

theorem checked_valid {α : Type} {ok : α → Bool} {r : α} (h : ok r = true) :
    (StoreSlot.written r).checked ok = .written r := if_pos h

theorem checked_invalid {α : Type} {ok : α → Bool} {r : α} (h : ok r = false) :
    (StoreSlot.written r).checked ok = .torn := if_neg (Bool.eq_false_iff.1 h)

/-- The projection that a restored element begins with (R139). -/
theorem startProjection_eq (st : AssignedState) :
    st.startProjection = if st = .due ∨ st = .limit then .now else .unknown := by
  cases st <;> rfl

theorem restoredElement_vacant {r : ElementRecord} (h : r.position = .vacant) :
    restoredElement (.written r) = ⟨r.generation, .vacant⟩ := by
  simp only [restoredElement, h]

theorem restoredElement_suspect {r : ElementRecord} (h : r.position = .suspect) :
    restoredElement (.written r) = ⟨r.generation, .suspect⟩ := by
  simp only [restoredElement, h]

theorem restoredElement_assigned {r : ElementRecord} {a : Account} (h : r.position = .assigned a) :
    restoredElement (.written r) =
      ⟨r.generation, .assigned { a with
        intervalWear := 0
        projection := if a.state = .due ∨ a.state = .limit then .now else .unknown }⟩ := by
  simp only [restoredElement, h, startProjection_eq]

/-- The element slots as the restore finds them, in the order of their numbers. -/
theorem checkedElements_eq_range (st : Store) :
    st.checkedElements = (List.range 240).map fun i => (st.element i).checked (ElementRecord.ok i) := by
  rw [Store.checkedElements, tenum_eq_range _ .blank, List.map_map]
  rfl

/-- The valid records that another checkpoint wrote (R173). -/
theorem staleCount_written {st : Store} {h : HeaderRecord} (hh : st.checkedHeader = .written h) :
    st.staleCount = (List.range 240).countP fun i => match st.element i with
      | .written r => r.ok i && r.sequence != h.sequence
      | .blank | .torn => false := by
  rw [Store.staleCount, hh]
  dsimp only
  rw [checkedElements_eq_range, List.countP_map]
  refine List.countP_congr fun i _ => ?_
  dsimp only [Function.comp]
  cases st.element i with
  | blank => exact Iff.rfl
  | torn => exact Iff.rfl
  | written r =>
    by_cases hr : r.ok i = true
    · rw [checked_valid hr]
      simp only [hr, Bool.true_and]
    · rw [Bool.not_eq_true] at hr
      rw [checked_invalid hr]
      simp only [hr, Bool.false_and]

theorem staleCount_otherwise {st : Store} (hh : ∀ h, st.checkedHeader ≠ .written h) : st.staleCount = 0 := by
  unfold Store.staleCount
  split
  · exact absurd (by assumption) (hh _)
  all_goals rfl

/-! ### Elements that start SUSPECT, and the outcome (R173, R174) -/

theorem suspectIndexes_eq_range (es : Vector Element 240) :
    suspectIndexes es = (List.range 240).filter fun i => (tget es i .vacant).isSuspect := by
  rw [suspectIndexes, tenum_eq_range _ .vacant, List.filterMap_map, ← List.filterMap_eq_filter]
  refine List.filterMap_congr fun i _ => ?_
  simp [Option.guard]

theorem suspectIndexes_eq_nil_iff (es : Vector Element 240) :
    suspectIndexes es = [] ↔ (tlist es).any Element.isSuspect = false := by
  rw [suspectIndexes_eq_range, List.filter_eq_nil_iff, tlist_eq_range es .vacant, List.any_map, List.any_eq_false]
  rfl

/-- The first element that starts SUSPECT. -/
theorem suspectIndexes_head {es : Vector Element 240} {i : Nat} (hi : i < 240)
    (h : (tget es i .vacant).isSuspect = true) (hf : ∀ j < i, (tget es j .vacant).isSuspect = false) :
    (suspectIndexes es).head? = some i := by
  rw [suspectIndexes_eq_range, List.head?_filter, List.find?_range_eq_some]
  exact ⟨h, List.mem_range.2 hi, fun j hj => by simp [hf j hj]⟩

theorem restoreAlerts_eq (st : Store) :
    st.restoreAlerts =
      (if st.checkedHeader = .torn then [AlertEvent.raised .restoreIncomplete 240] else []) ++
        ((suspectIndexes st.restored).head?.map fun i => AlertEvent.raised .restoreIncomplete i).toList := by
  rw [Store.restoreAlerts]
  simp only [beq_iff_eq]
  cases (suspectIndexes st.restored).head? <;> rfl

theorem ite_suspects {α : Type} (es : Vector Element 240) (x y : α) :
    (if suspectIndexes es = [] then x else y) = if (tlist es).any Element.isSuspect = true then y else x := by
  by_cases h : (tlist es).any Element.isSuspect = true
  · rw [if_pos h, if_neg fun hn => Bool.false_ne_true (((suspectIndexes_eq_nil_iff es).1 hn).symm.trans h)]
  · rw [if_neg h, if_pos ((suspectIndexes_eq_nil_iff es).2 (Bool.not_eq_true _ ▸ h))]

theorem allBlank_iff (st : Store) :
    (st.elements.toArray.toList.all (· == .blank)) = true ↔ ∀ i < 240, st.element i = .blank := by
  rw [show st.elements.toArray.toList = tlist st.elements from rfl, tlist_eq_range _ .blank, List.all_map,
    List.all_eq_true]
  simp [Store.element]

/-! ### Valid records (R164, R165) -/

theorem stateOk_iff {a : Account} (h0 : a.settings.advisory < a.settings.due) (h1 : a.settings.due < a.settings.limit) :
    a.stateOk = true ↔
      (a.state = .breakIn → a.accumulator < a.settings.advisory) ∧
      (a.state = .service → a.accumulator < a.settings.advisory) ∧
      (a.state = .advised → a.settings.advisory ≤ a.accumulator ∧ a.accumulator < a.settings.due) ∧
      (a.state = .due → a.settings.due ≤ a.accumulator ∧ a.accumulator < a.settings.limit) ∧
      (a.state = .limit → a.settings.limit ≤ a.accumulator) := by
  rw [Account.stateOk]
  cases hs : a.state
  case breakIn => simp
  all_goals
    unfold thresholdState
    split_ifs <;> simp <;> omega

theorem record_ok_iff_unassigned {i : Nat} {r : ElementRecord} (h : r.position = .vacant ∨ r.position = .suspect) :
    r.ok i = true ↔ r.index = i := by
  rcases h with h | h <;> simp [ElementRecord.ok, h]

theorem record_ok_iff_assigned {i : Nat} {r : ElementRecord} {a : Account} (h : r.position = .assigned a) :
    r.ok i = true ↔
      r.index = i ∧ a.settings.ok = true ∧ a.intervals ≤ 16 ∧ a.stateOk = true := by
  simp [ElementRecord.ok, h, and_assoc]

theorem route_ok_iff (r : Route) :
    r.ok = true ↔ r.maskIndex ≤ 7 ∧ r.path.length ≤ 16 ∧ ∀ i ∈ r.path, i ≤ 239 := by
  simp [Route.ok, and_assoc]

theorem engine_ne_starting_iff (e : EngineState) : (e != .starting) = true ↔ e = .stopped ∨ e = .counting := by
  cases e <;> decide

theorem header_ok_iff (h : HeaderRecord) :
    h.ok = true ↔ h.options.ok = true ∧
      (∀ k < 32, (tget h.routes k .empty).maskIndex ≤ 7 ∧ (tget h.routes k .empty).path.length ≤ 16 ∧
        ∀ i ∈ (tget h.routes k .empty).path, i ≤ 239) ∧
      (h.commonPath.length ≤ 16 ∧ ∀ i ∈ h.commonPath, i ≤ 239) ∧ (h.engine = .stopped ∨ h.engine = .counting) := by
  have hr : (tlist h.routes).all Route.ok = true ↔ ∀ k < 32, (tget h.routes k .empty).ok = true := by
    rw [tlist_eq_range _ .empty, List.all_map, List.all_eq_true]
    simp
  simp only [HeaderRecord.ok, Bool.and_eq_true, hr, route_ok_iff, engine_ne_starting_iff, decide_eq_true_eq,
    List.all_eq_true, and_assoc]

/-- Settles O33: slots, counts, alerts and outcome by their lemmas above, records by their checks. -/
theorem storeRestored : Obligations.StoreRestored := by
  refine ⟨fun st => ⟨fun i hi => ?slot, fun h => staleCount_written, staleCount_otherwise, ?clear, ?first, ?valid,
    ?torn, ?fresh, ?defaults⟩, fun i r => ⟨record_ok_iff_unassigned, fun a ha => ?record⟩, fun st => ?header⟩
  case slot =>
    rw [tget_restored st hi]
    refine ⟨fun h => by rw [h]; rfl, fun h => by rw [h]; rfl, fun r h => ?_⟩
    rw [h]
    refine ⟨fun hr => by rw [checked_invalid hr]; rfl, fun hr hp => ?_, fun hr hp => ?_, fun a hr hp => ?_⟩
    · rw [checked_valid hr, restoredElement_vacant hp]
    · rw [checked_valid hr, restoredElement_suspect hp]
    · rw [checked_valid hr, restoredElement_assigned hp]
  case clear =>
    intro h
    rw [restoreAlerts_eq, (suspectIndexes_eq_nil_iff _).2 h]
    exact List.append_nil _
  case first =>
    intro i hi h hf
    rw [restoreAlerts_eq, suspectIndexes_head hi h hf]
    rfl
  case valid =>
    intro h hh
    rw [Store.outcome, hh]
    exact ite_suspects _ _ _
  case torn =>
    intro hh
    rw [Store.outcome, hh]
  case fresh =>
    intro hh hb
    rw [Store.outcome, hh]
    exact if_pos ((allBlank_iff st).2 hb)
  case defaults =>
    rintro hh ⟨i, hi, hb⟩
    rw [Store.outcome, hh]
    exact (if_neg fun h => hb ((allBlank_iff st).1 h i hi)).trans (ite_suspects _ _ _)
  case record =>
    rw [record_ok_iff_assigned ha]
    refine and_congr_right fun _ => and_congr_right fun hv => and_congr_right fun _ => ?_
    obtain ⟨-, -, -, -, -, -, h0, h1, -⟩ := settings_ok_iff_checks.1 hv
    exact stateOk_iff h0 h1
  case header =>
    refine ⟨fun h => by rw [Store.checkedHeader, h]; rfl, fun h => by rw [Store.checkedHeader, h]; rfl, fun h hh => ?_⟩
    rw [Store.checkedHeader, hh, ← header_ok_iff]
    exact ⟨checked_valid, fun hv => checked_invalid (Bool.eq_false_iff.2 hv)⟩

end Sys2Proof.Machine
end

section
/-! SUPPORT. What the deliveries of a tick can do: a property that each of their acts keeps is kept by the roll of the
boundary and by the boundary taken to its end (R28, R40, R88, R135 to R137). -/

namespace Sys2Proof.Machine

/-- A property kept by each thing that an interval boundary does, with the work of the record it waits for. -/
structure KeptByBoundary (P : State → Prop) : Prop extends KeptByWork P where
  timer : ∀ (s : State) m, P s → P { s with timer := m }
  rolled : ∀ (s : State) L carried first count, P s →
    P { s with elements := rollTable L carried first count s.elements }
  closed : ∀ s, P s → P s.closeIntervals
  replanned : ∀ s, P s → P s.replan
  triggered : ∀ s, P s → P s.triggerCheckpoint

namespace KeptByBoundary

variable {P : State → Prop} {s : State}

theorem runOn (h : KeptByBoundary P) (hs : P s) (examined : Option Nat) : P (s.runOn examined) :=
  runOn_keeps h.charges h.timer s examined hs

theorem rollOn (h : KeptByBoundary P) (hs : P s) (carried : Option Nat) (next : Nat) (examined : Option Nat) :
    P (s.rollOn carried next examined) :=
  rollOn_keeps (fun s L n m hs => h.timer _ m (h.rolled s L carried next n hs)) h.replanned h.triggered s examined hs

theorem deliverSnapshot (h : KeptByBoundary P) (hs : P s) : P s.deliverSnapshot := by
  unfold State.deliverSnapshot
  split
  · exact h.closed _ (h.timer _ _ hs)
  · exact hs

theorem deliverRoll (h : KeptByBoundary P) (hs : P s) (examined : Option Nat) : P (s.deliverRoll examined) := by
  have begun : ∀ carried, P (if (s.runOn none).recordCharged
      then (s.runOn none).setBoundary (some ⟨carried, .waits⟩)
      else (s.runOn none).rollOn carried 0 examined) := by
    intro carried
    split
    · exact h.timer _ _ (h.runOn hs none)
    · exact h.rollOn (h.runOn hs none) _ _ _
  unfold State.deliverRoll
  split
  · exact h.rollOn hs _ _ _
  · exact begun _
  · exact begun _
  · exact hs

theorem finishBoundary (h : KeptByBoundary P) (hs : P s) : P s.finishBoundary := by
  have hd := h.deliverSnapshot hs
  have ended : P (State.deliverRoll (if (s.deliverSnapshot.runOn none).recordCharged
      then (s.deliverSnapshot.runOn none).goOn none else s.deliverSnapshot.runOn none) none) := by
    refine h.deliverRoll ?_ none
    split
    · exact goOn_keeps h.toKeptByWork _ none (h.runOn hd none)
    · exact h.runOn hd none
  unfold State.finishBoundary
  split
  · exact h.deliverRoll hd none
  · exact ended
  · exact ended
  · exact hd

end KeptByBoundary

end Sys2Proof.Machine
end

section
/-! SUPPORT. The part's ledger: the intake, the watch ring, the BUSY list and the item counters, with everything that an
act of the part can do to them (R45, R46, R48, R49, R58, R59, R99, R100, R103, R183, R189). -/

namespace Sys2Proof.Machine

/-- The records queued, the ring and the list whose sizes R48, R99 and R183 bound, and the counters of R45. -/
structure Ledger where
  intake : List LineRecord
  ring : List WatchEntry
  busy : List Byte
  received : BitVec 32
  counted : BitVec 32
  notCounted : BitVec 32
  lost : BitVec 32
  matchCounts : Vector (BitVec 32) 32
  unrouted : BitVec 32

def State.ledger (s : State) : Ledger where
  intake := s.line.intake
  ring := s.wear.ring
  busy := s.host.busy
  received := s.wear.received
  counted := s.wear.counted
  notCounted := s.wear.notCounted
  lost := s.wear.lost
  matchCounts := s.routes.matchCounts
  unrouted := s.routes.unrouted

/-- The ledger after a start-up has begun (R26, R54, R99, R195). -/
def Ledger.fresh : Ledger := ⟨[], [], [], 0, 0, 0, 0, Vector.replicate 32 0, 0⟩

/-- One act of the part on its ledger. -/
inductive Ledger.Act (l : Ledger) : Ledger → Prop where
  /-- A charge of the watched element (R48). -/
  | watched (e : WatchEntry) : l.Act { l with ring := joinRing l.ring e }
  /-- A fitting notice, or SET WATCH (R47, R49). -/
  | unwatched : l.Act { l with ring := [] }
  /-- A frame dropped with a BUSY reply owed (R183). -/
  | owed (code : Byte) : l.busy.length < 4 → l.Act { l with busy := l.busy ++ [code] }
  /-- A BUSY reply begun (R184). -/
  | paid {code : Byte} {rest : List Byte} : l.busy = code :: rest → l.Act { l with busy := rest }
  /-- A record that the intake has room for (R99, R103). -/
  | queued (r : LineRecord) : (l.intake.map LineRecord.footprint).sum + r.footprint ≤ 2048 →
      l.Act { l with
        intake := l.intake ++ [r]
        received := if r.isItem then l.received + 1 else l.received }
  /-- A record lost to overrun (R100, R103). -/
  | overrun (r : LineRecord) :
      l.Act { l with
        received := if r.isItem then l.received + 1 else l.received
        lost := if r.isItem then l.lost + 1 else l.lost }
  /-- An ITEM discarded in STARTING (R103). -/
  | discarded : l.Act { l with received := l.received + 1, notCounted := l.notCounted + 1 }
  /-- Another record than an ITEM taken (R27). -/
  | taken {r : LineRecord} {rest : List LineRecord} : l.intake = r :: rest → r.isItem = false →
      l.Act { l with intake := rest }
  /-- An ITEM taken in STOPPED (R32). -/
  | passed {it : Item} {rest : List LineRecord} : l.intake = .item it :: rest →
      l.Act { l with intake := rest, notCounted := l.notCounted + 1 }
  /-- An ITEM counted by the route that matches it (R33, R58). -/
  | routed {it : Item} {rest : List LineRecord} {k : Nat} : l.intake = .item it :: rest → k < 32 →
      l.Act { l with
        intake := rest
        counted := l.counted + 1
        matchCounts := tset l.matchCounts k (tget l.matchCounts k 0 + 1) }
  /-- An ITEM counted that no route matches (R33, R59). -/
  | strayed {it : Item} {rest : List LineRecord} : l.intake = .item it :: rest →
      l.Act { l with intake := rest, counted := l.counted + 1, unrouted := l.unrouted + 1 }
  /-- CLEAR COUNTS, or READ ROUTE COUNTS with its clear (R46, R189). -/
  | cleared :
      l.Act { l with
        received := BitVec.ofNat 32 (l.intake.countP LineRecord.isItem)
        counted := 0
        notCounted := 0
        lost := 0
        matchCounts := Vector.replicate 32 0
        unrouted := 0 }
  /-- A start-up begins, or power is lost (R173, R176). -/
  | restarted : l.Act .fresh

/-- The part stands where acts on a ledger lead. -/
def Reaches (l : Ledger) (s : State) : Prop := Relation.ReflTransGen Ledger.Act l s.ledger

variable {l : Ledger} {s u : State}

theorem reaches_self (s : State) : Reaches s.ledger s := .refl

theorem Reaches.same (h : Reaches l s) (hu : u.ledger = s.ledger) : Reaches l u := by
  rw [Reaches, hu]
  exact h

theorem Reaches.act (h : Reaches l s) (hu : s.ledger.Act u.ledger) : Reaches l u := .tail h hu

/-- What leaves the four blocks of the ledger as they are leaves the ledger. -/
theorem ledger_congr (hline : u.line = s.line) (hwear : u.wear = s.wear) (hroutes : u.routes = s.routes)
    (hhost : u.host = s.host) : u.ledger = s.ledger := by
  simp only [State.ledger, hline, hwear, hroutes, hhost]

/-! ### The host link (R183, R184) -/

/-- A frame that completes joins the BUSY list or leaves it. -/
theorem complete_reaches (h : Reaches l s) (f : HostFrame) (engine : EngineState) :
    Reaches l { s with host := s.host.complete engine f } := by
  unfold HostLink.complete
  split
  · exact h.same rfl
  · exact h.same rfl
  · split
    · exact h.act (.owed _ ‹_›)
    · exact h.same rfl

theorem arbitrate_reaches (h : Reaches l s) : Reaches l s.arbitrate := by
  unfold State.arbitrate
  split
  · exact h
  · exact h.act (.paid (code := _) ‹_›)
  · exact h.same rfl
  · exact h.same rfl
  · exact h

theorem reaches_host : KeptByHost (Reaches l) where
  chosen _ h := arbitrate_reaches h
  inHand _ _ h := h.same rfl
  frame s f h := complete_reaches h f s.engine

theorem receive_reaches (h : Reaches l s) (engine : EngineState) (b : Byte) :
    Reaches l { s with host := s.host.receive engine b } := by
  unfold HostLink.receive
  dsimp only
  split
  · exact complete_reaches (s := { s with host := { s.host with rx := (s.host.rx.step b).1 } }) (h.same rfl) _ _
  · exact h.same rfl

theorem hostReceive_reaches (h : Reaches l s) (bytes : List Byte) : Reaches l (s.hostReceive bytes) :=
  foldl_keeps_prop (Q := fun host => Reaches l { s with host := host })
    (fun host b hb => receive_reaches (s := { s with host := host }) hb s.engine b) bytes h

/-! ### The line link (R92 to R105) -/

theorem offer_reaches (h : Reaches l s) (r : LineRecord) : Reaches l (s.offer r) := by
  unfold State.offer
  split
  · rename_i hr
    refine h.act ?_
    convert Ledger.Act.queued (l := s.ledger) r hr using 1
    cases r <;> rfl
  · refine h.act ?_
    convert Ledger.Act.overrun (l := s.ledger) r using 1
    cases r <;> rfl

theorem passOn_reaches (h : Reaches l s) (r : Inbound) : Reaches l (s.passOn r) := by
  unfold State.passOn
  split
  · unfold State.discardStarting
    split
    · split
      · exact h.act .discarded
      · exact h
    · exact h.same rfl
  · split
    · exact offer_reaches h _
    · unfold State.takeAnswer
      split <;> exact h.same rfl

theorem lineByte_reaches (h : Reaches l s) (b : Byte) : Reaches l (s.lineByte b) := by
  have moved : ∀ rx, Reaches l (s.setLineRx rx) := fun rx => h.same rfl
  unfold State.lineByte
  dsimp only
  split
  · unfold State.recordArrives
    split
    · exact passOn_reaches (moved _) _
    · exact (moved (s.line.rx.step b).1).same rfl
  · exact moved _

theorem lineBytes_reaches (h : Reaches l s) (bytes : List Byte) : Reaches l (s.lineBytes bytes) :=
  foldl_keeps_prop (Q := Reaches l) (fun _ b hb => lineByte_reaches hb b) bytes h

theorem lineGap_reaches (h : Reaches l s) : Reaches l s.lineGap := by
  unfold State.lineGap
  split <;> exact h.same rfl

/-! ### Charges, the work of a record and the boundary (R28, R39, R42, R48) -/

theorem watchCharge_reaches (h : Reaches l s) (i : Nat) (e : WatchEntry) :
    Reaches l { s with wear := s.wear.watchCharge i e } := by
  unfold WearEngine.watchCharge
  split
  · exact h.act (.watched e)
  · exact h

theorem reaches_charges : KeptByCharges (Reaches l) := fun _ i f c _ h =>
  (watchCharge_reaches h i ⟨c.watchSource, c.units, (f.charge c).accumulator⟩).same rfl

theorem reaches_boundary : KeptByBoundary (Reaches l) where
  charges := reaches_charges
  work _ _ h := h.same rfl
  done _ h := h.same rfl
  counted _ _ h := h.same rfl
  timer _ _ h := h.same rfl
  rolled _ _ _ _ _ h := h.same rfl
  closed _ h := h.same rfl
  replanned _ h := h.same rfl
  triggered _ h := h.same (ledger_congr (by simp) (by simp) (by simp) (by simp))

/-! ### Records taken (R27, R32, R33, R58, R59) -/

theorem choose_lt {m : RouteMap} {key : BitVec 16} {x : Route × Nat} (h : m.choose key = some x) : x.2 < 32 :=
  ((mem_tenum .empty).1 (List.mem_of_find?_eq_some h)).1

/-- An ITEM leaves the intake and is counted in one route counter. -/
theorem routeItem_act {it : Item} {rest : List LineRecord} (h : s.line.intake = .item it :: rest)
    (schedule : Schedule) :
    s.ledger.Act
      (State.routeItem { s with schedule := schedule, line := { s.line with intake := rest } } it).ledger := by
  cases hc : s.routes.choose it.key with
  | none =>
    convert Ledger.Act.strayed (l := s.ledger) h using 1
    simp only [State.ledger, State.routeItem, RouteMap.counted, hc]
  | some x =>
    convert Ledger.Act.routed (l := s.ledger) h (choose_lt hc) using 1
    simp only [State.ledger, State.routeItem, RouteMap.counted, hc, RouteMap.matchCount]

theorem takeMode_ledger (s : State) (m : LineMode) : (s.takeMode m).ledger = s.ledger := by
  unfold State.takeMode
  dsimp only
  split <;> rfl

theorem takeRecord_reaches (h : Reaches l s) : Reaches l s.takeRecord := by
  have worked := (reaches_boundary (l := l)).toKeptByWork
  unfold State.takeRecord
  split
  · exact h
  · exact goOn_keeps worked _ _ (h.same rfl)
  · rename_i r rest _ hr _
    cases r with
    | item it =>
      dsimp only [State.beginRecord]
      split
      · exact itemWork_keeps worked _ _ _ _ _ (h.act (routeItem_act hr _))
      · exact h.act (.passed hr)
    | mode m =>
      have left : Reaches l { s.cutTaken with line := { s.line with intake := rest } } := h.act (.taken hr rfl)
      exact left.same (takeMode_ledger _ m)
    | tach t drive belt valid => exact h.act (.taken hr rfl)
    | jam t severity =>
      dsimp only [State.beginRecord]
      split
      · exact jamWork_keeps worked _ _ _ _ _ _ (h.act (.taken hr rfl))
      · exact h.act (.taken hr rfl)
  · exact h

/-! ### Time -/

theorem finishTick_reaches (h : Reaches l s) : Reaches l s.finishTick :=
  reaches_boundary.finishBoundary (h.same (ledger_congr (by simp) (by simp) (by simp) (by simp)))

theorem takeTick_reaches (h : Reaches l s) (examined : Option Nat) : Reaches l (s.takeTick examined) := by
  unfold State.takeTick
  split
  · exact reaches_boundary.runOn h _
  · have counted : Reaches l s.finishTick.countTick := (finishTick_reaches h).same rfl
    refine (reaches_boundary.runOn counted examined).same ?_
    exact ledger_congr (by simp [State.minuteTick]) (by simp [State.minuteTick]) (by simp [State.minuteTick])
      (by simp [State.minuteTick])

theorem takeBoundary_reaches (h : Reaches l s) : Reaches l s.takeBoundary := by
  have begun : Reaches l s.cutTaken := h.same rfl
  unfold State.takeBoundary
  split
  · exact h
  · split
    · exact reaches_boundary.deliverRoll (reaches_boundary.deliverSnapshot begun) _
    · exact reaches_boundary.deliverSnapshot begun
    · exact reaches_boundary.deliverRoll begun _

/-! ### Start-ups -/

theorem beginStartup_reaches (h : Reaches l s) (store : Store) (erasing : Bool) :
    Reaches l (s.beginStartup store erasing) :=
  h.act .restarted

theorem restore_ledger (s : State) : s.restore.ledger = s.ledger := by
  unfold State.restore
  split
  · rfl
  · unfold State.restoreHeader
    dsimp only
    split <;> rfl

theorem takeStartup_ledger (s : State) (acts : Option Nat) : (s.takeStartup acts).ledger = s.ledger := by
  cases acts with
  | none => exact (ledger_congr rfl rfl rfl rfl).trans (restore_ledger s)
  | some n => exact restore_ledger s

theorem replySent_reaches (h : Reaches l s) : Reaches l s.replySent := by
  unfold State.replySent
  split
  · split
    · exact h.same rfl
    · exact beginStartup_reaches h _ _
    · exact beginStartup_reaches h _ _
  · exact h

theorem busySent_ledger (s : State) : s.busySent.ledger = s.ledger := by
  unfold State.busySent
  split <;> rfl

theorem noticeSent_ledger (s : State) : s.noticeSent.ledger = s.ledger := by
  unfold State.noticeSent
  split <;> rfl

end Sys2Proof.Machine
end

section
/-! SUPPORT. What each row leaves of the part's ledger: every row's outcome stands where acts on the ledger lead. -/

namespace Sys2Proof.Machine

variable {l : Ledger} {s : State}

/-! ### Requests that leave the ledger as it is -/

theorem setClockWork_ledger (v : Nat) (s : State) : (setClockWork v s).state.ledger = s.ledger := by
  unfold setClockWork
  split_ifs <;> rfl

theorem startWork_ledger (s : State) : (startWork s).state.ledger = s.ledger := by
  unfold startWork
  split_ifs <;> rfl

theorem triggerCheckpoint_ledger (s : State) : s.triggerCheckpoint.ledger = s.ledger :=
  ledger_congr (by simp) (by simp) (by simp) (by simp)

theorem stopWork_ledger (s : State) : (stopWork s).state.ledger = s.ledger := by
  unfold stopWork
  split_ifs
  · exact triggerCheckpoint_ledger _
  · rfl

theorem wipeWork_ledger (s : State) : (wipeWork s).state.ledger = s.ledger := by
  unfold wipeWork
  split_ifs <;> rfl

theorem setThresholdsWork_ledger (n a d lim : Nat) (s : State) :
    (setThresholdsWork n a d lim s).state.ledger = s.ledger := by
  unfold setThresholdsWork
  (repeat' split) <;> rfl

theorem setWeightsWork_ledger (n : Nat) (fields : WeightFields) (s : State) :
    (setWeightsWork n fields s).state.ledger = s.ledger := by
  unfold setWeightsWork State.reweigh State.recost
  (repeat' split) <;> rfl

theorem waiveHoldWork_ledger (n setting : Nat) (s : State) : (waiveHoldWork n setting s).state.ledger = s.ledger := by
  unfold waiveHoldWork
  (repeat' split) <;> rfl

theorem abortHoldWork_ledger (k : Nat) (s : State) : (abortHoldWork k s).state.ledger = s.ledger := by
  unfold abortHoldWork
  (repeat' split) <;> rfl

theorem releaseHoldWork_ledger (t : Nat) (s : State) : (releaseHoldWork t s).state.ledger = s.ledger := by
  unfold releaseHoldWork
  split <;> rfl

theorem armCaptureWork_ledger (level scope : Nat) (s : State) :
    (armCaptureWork level scope s).state.ledger = s.ledger := by
  unfold armCaptureWork
  split <;> rfl

/-- An edit of the route map that keeps its counters. -/
theorem editMap_ledger (s : State) (ok : Bool) {m : RouteMap} (reply : List Byte)
    (hc : m.matchCounts = s.routes.matchCounts) (hu : m.unrouted = s.routes.unrouted) :
    (s.editMap ok m reply).state.ledger = s.ledger := by
  unfold State.editMap
  split_ifs
  · rfl
  · simp only [accept, State.ledger, hc, hu]
  · rfl

theorem addWindowWork_ledger (start length capacity : Nat) (s : State) :
    (addWindowWork start length capacity s).state.ledger = s.ledger := by
  unfold addWindowWork
  (repeat' split) <;> rfl

theorem removeWindowWork_ledger (k : Nat) (s : State) : (removeWindowWork k s).state.ledger = s.ledger := by
  unfold removeWindowWork
  (repeat' split) <;> rfl

theorem pinWork_ledger (i k : Nat) (s : State) : (pinWork i k s).state.ledger = s.ledger := by
  unfold pinWork
  (repeat' split) <;> rfl

theorem unpinWork_ledger (i : Nat) (s : State) : (unpinWork i s).state.ledger = s.ledger := by
  unfold unpinWork
  (repeat' split) <;> rfl

theorem saveWork_ledger (s : State) : (saveWork s).state.ledger = s.ledger := by
  unfold saveWork
  split <;> exact triggerCheckpoint_ledger _

theorem fetchAlertsWork_ledger (mask : BitVec 32) (s : State) :
    (fetchAlertsWork mask s).state.ledger = s.ledger := by
  unfold fetchAlertsWork
  split_ifs <;> rfl

theorem setNoticeMaskWork_ledger (mask : BitVec 32) (s : State) :
    (setNoticeMaskWork mask s).state.ledger = s.ledger := by
  unfold setNoticeMaskWork
  split_ifs <;> rfl

/-! ### Requests that act on it -/

theorem fittingNotice_reaches (h : Reaches l s) (i : Nat) :
    Reaches l { s with wear := s.wear.fittingNotice i } := by
  unfold WearEngine.fittingNotice
  split
  · exact h.act .unwatched
  · exact h

theorem assignElementWork_reaches (h : Reaches l s) (i : Nat) (fields : SettingFields) (a : Nat) :
    Reaches l (assignElementWork i fields a s).state := by
  unfold assignElementWork
  split
  · exact h
  · split
    · exact h
    · split
      · exact h
      · exact (fittingNotice_reaches h i).same rfl

theorem replaceElementWork_reaches (h : Reaches l s) (i : Nat) : Reaches l (replaceElementWork i s).state := by
  unfold replaceElementWork
  split
  · exact h
  · split
    · exact h
    · exact (fittingNotice_reaches h i).same rfl

theorem retireElementWork_reaches (h : Reaches l s) (i : Nat) : Reaches l (retireElementWork i s).state := by
  unfold retireElementWork
  dsimp only
  split
  · exact h
  · split
    · exact h
    · exact (fittingNotice_reaches h i).same rfl
    · exact (fittingNotice_reaches h i).same rfl

theorem setWatchWork_reaches (h : Reaches l s) (n : Nat) : Reaches l (setWatchWork n s).state := by
  unfold setWatchWork
  split
  · exact h.act .unwatched
  · exact h

theorem setOptionsWork_reaches (h : Reaches l s) (fields : OptionFields) :
    Reaches l (setOptionsWork fields s).state := by
  unfold setOptionsWork
  split
  · exact h
  · split
    · exact h
    · dsimp only [accept]
      unfold State.putOptions
      split
      · exact h.same rfl
      · exact (reaches_boundary.finishBoundary h).same rfl

theorem clearItemCounts_reaches (h : Reaches l s) : Reaches l s.clearItemCounts := h.act .cleared

/-! ### Rows -/

/-- A request whose work leaves the ledger as it is. -/
theorem request_reaches {i : Instr} {work : State → Answer} (h : Reaches l s)
    (hw : (work s).state.ledger = s.ledger) : Lands (Reaches l) (s.request i work) :=
  request_lands reaches_host h (h.same hw)

theorem request_row_reaches (i : Instr) (s : State) (hi : requestCommand i ≠ none) (h : Reaches l s) :
    Lands (Reaches l) (exec i s) := by
  have host := reaches_host (l := l)
  cases i with
  | setClock v => exact request_reaches h (setClockWork_ledger v s)
  | start => exact request_reaches h (startWork_ledger s)
  | stop => exact request_reaches h (stopWork_ledger s)
  | wipe => exact request_reaches h (wipeWork_ledger s)
  | setOptions fields => exact request_lands host h (setOptionsWork_reaches h fields)
  | clearCounts => exact request_lands host h ((clearItemCounts_reaches h).same rfl)
  | assignElement n fields a => exact request_lands host h (assignElementWork_reaches h n fields a)
  | replaceElement n => exact request_lands host h (replaceElementWork_reaches h n)
  | retireElement n => exact request_lands host h (retireElementWork_reaches h n)
  | setThresholds n a d lim => exact request_reaches h (setThresholdsWork_ledger n a d lim s)
  | setWeights n fields => exact request_reaches h (setWeightsWork_ledger n fields s)
  | waiveHold n setting => exact request_reaches h (waiveHoldWork_ledger n setting s)
  | abortHold k => exact request_reaches h (abortHoldWork_ledger k s)
  | releaseHold t => exact request_reaches h (releaseHoldWork_ledger t s)
  | setWatch n => exact request_lands host h (setWatchWork_reaches h n)
  | armCapture level scope => exact request_reaches h (armCaptureWork_ledger level scope s)
  | setMask _ _ | setRoute _ _ _ _ _ | clearRoute _ | setCommonPath _ =>
    exact request_reaches h (editMap_ledger s _ _ rfl rfl)
  | readRouteCounts clear =>
    refine request_lands host h ?_
    split
    · exact clearItemCounts_reaches h
    · exact h
    · exact h
  | addWindow start length capacity => exact request_reaches h (addWindowWork_ledger start length capacity s)
  | removeWindow k => exact request_reaches h (removeWindowWork_ledger k s)
  | pin n k => exact request_reaches h (pinWork_ledger n k s)
  | unpin n => exact request_reaches h (unpinWork_ledger n s)
  | save => exact request_reaches h (saveWork_ledger s)
  | readSaveStatus => exact execReadSaveStatus_lands host h
  | fetchAlerts mask => exact request_reaches h (fetchAlertsWork_ledger mask s)
  | setNoticeMask mask => exact request_reaches h (setNoticeMaskWork_ledger mask s)
  | readElement _ | listElements _ _ _ | readRoute _ | readTransport _ | readIntervalCounts _ _ | readPlan _
  | readWindows _ => exact request_reaches h (by split <;> rfl)
  | status | restart | readOptions | readWatch | readCapture | readHolds | replan =>
    exact request_reaches h rfl
  | _ => exact absurd rfl hi

theorem act_reaches {f : State → State} (h : Reaches l s) (hf : (f s).ledger = s.ledger) :
    Lands (Reaches l) (s.act f) :=
  act_lands reaches_host h (h.same hf)

theorem row_reaches (i : Instr) (s : State) (h : Reaches l s) : Lands (Reaches l) (exec i s) := by
  have host := reaches_host (l := l)
  cases i with
  | powerOn => exact lands_next.2 (host.chosen _ (beginStartup_reaches h _ _))
  | resetPin erased =>
    exact act_lands (f := fun s => s.beginStartup (s.storeAtReset erased) false) host h (beginStartup_reaches h _ _)
  | powerLoss tear erased torn =>
    refine lands_next.2 ?_
    split
    · exact h.act .restarted
    · exact h
  | startupEnd =>
    refine act_lands host h ?_
    split
    · exact h.same (takeStartup_ledger s.cutTaken _)
    · exact h
  | lineRecordArrival bytes => exact act_lands (f := (·.lineBytes bytes)) host h (lineBytes_reaches h bytes)
  | lineRecordAbandoned => exact act_lands host h (lineGap_reaches h)
  | takeRecord => exact act_lands host h (takeRecord_reaches h)
  | minuteTick =>
    refine act_lands host h ?_
    split
    · exact takeTick_reaches (s := s.cutTaken) (h.same rfl) _
    · exact h
  | deferralEnd => exact act_reaches h (ledger_congr (by simp) (by simp) (by simp) (by simp))
  | windowExpiry => exact act_reaches h (ledger_congr (by simp) (by simp) (by simp) (by simp))
  | intervalBoundary => exact act_lands host h (takeBoundary_reaches h)
  | checkpointRecordWritten result =>
    exact act_reaches (f := (·.recordWritten result)) h (ledger_congr (by simp) (by simp) (by simp) (by simp))
  | hostReplySent =>
    exact execHostReplySent_lands host (fun _ h => h.same rfl) (fun _ h => replySent_reaches h)
      request_row_reaches h
  | busyReplySent => exact act_reaches h (busySent_ledger s)
  | noticeSent => exact act_reaches h (noticeSent_ledger s)
  | lineByteReceived b => exact act_lands (f := (·.lineByte b)) host h (lineByte_reaches h b)
  | lineTxSent => exact act_reaches (f := fun s => { s with hold := s.hold.headSent _ }) h rfl
  | holdTimerExpiry slot => exact act_reaches (f := (·.expireSlot slot)) h rfl
  | hostFrameComplete bytes => exact act_lands (f := (·.hostReceive bytes)) host h (hostReceive_reaches h bytes)
  | hostFrameAbandoned => exact act_reaches (f := fun s => { s with host := { s.host with rx := .hunting } }) h rfl
  | hostByteReceived b => exact act_lands (f := (·.hostReceive [b])) host h (hostReceive_reaches h [b])
  | _ => exact request_row_reaches _ s (by simp [requestCommand]) h

/-- A step leads along acts on the ledger. -/
theorem step_reaches {s t : State} (h : step s = .next t) : Reaches s.ledger t :=
  step_keeps (fun _ _ hs => hs.same rfl) row_reaches (reaches_self s) t h

/-- A property of the ledger that every act keeps holds after a step. -/
theorem ledger_step_keeps {Q : Ledger → Prop} (h : ∀ l m : Ledger, l.Act m → Q l → Q m) {s t : State}
    (hs : Q s.ledger) (ht : step s = .next t) : Q t.ledger := by
  have key : ∀ m, Relation.ReflTransGen Ledger.Act s.ledger m → Q m := by
    intro m hm
    induction hm with
    | refl => exact hs
    | tail _ hact ih => exact h _ _ hact ih
  exact key _ (step_reaches ht)

end Sys2Proof.Machine
end

section
/-! The limits of the intake, the watch ring and the BUSY list (R48, R99, R183), and the item balance (R45): every act
on the ledger keeps them. -/

namespace Sys2Proof.Machine

/-! ### Limits -/

def Ledger.withinLimits (l : Ledger) : Prop :=
  (l.intake.map LineRecord.footprint).sum ≤ 2048 ∧ l.ring.length ≤ 16 ∧ l.busy.length ≤ 4

theorem limitsKept_iff (s : State) : s.limitsKept ↔ s.ledger.withinLimits := Iff.rfl

theorem joinRing_length (ring : List WatchEntry) (e : WatchEntry) : (joinRing ring e).length ≤ 16 := by
  simp [joinRing]
  omega

/-- Taking the head leaves at most as many bytes in the intake. -/
theorem footprints_tail {intake rest : List LineRecord} {r : LineRecord} (h : intake = r :: rest)
    (hl : (intake.map LineRecord.footprint).sum ≤ 2048) : (rest.map LineRecord.footprint).sum ≤ 2048 := by
  rw [h, List.map_cons, List.sum_cons] at hl
  omega

theorem act_withinLimits (l m : Ledger) (h : l.Act m) (hl : l.withinLimits) : m.withinLimits := by
  obtain ⟨hintake, hring, hbusy⟩ := hl
  cases h with
  | watched e => exact ⟨hintake, joinRing_length _ _, hbusy⟩
  | unwatched => exact ⟨hintake, Nat.zero_le _, hbusy⟩
  | owed code hb => exact ⟨hintake, hring, by simpa using hb⟩
  | paid hb => exact ⟨hintake, hring, by rw [hb, List.length_cons] at hbusy; dsimp only; omega⟩
  | queued r hr => exact ⟨by simpa using hr, hring, hbusy⟩
  | overrun r => exact ⟨hintake, hring, hbusy⟩
  | discarded => exact ⟨hintake, hring, hbusy⟩
  | taken hr _ => exact ⟨footprints_tail hr hintake, hring, hbusy⟩
  | passed hr => exact ⟨footprints_tail hr hintake, hring, hbusy⟩
  | routed hr _ => exact ⟨footprints_tail hr hintake, hring, hbusy⟩
  | strayed hr => exact ⟨footprints_tail hr hintake, hring, hbusy⟩
  | cleared => exact ⟨hintake, hring, hbusy⟩
  | restarted => exact ⟨Nat.zero_le _, Nat.zero_le _, Nat.zero_le _⟩

/-- Settles O55: every act on the ledger keeps the three limits, and a step is acts on it. -/
theorem limitsKept : Obligations.LimitsKept := by
  intro s t hs h
  rw [limitsKept_iff] at hs ⊢
  exact ledger_step_keeps act_withinLimits hs h

/-! ### Items -/

/-- The ITEM records in the intake, in the counters' arithmetic (R45). -/
def Ledger.items (l : Ledger) : BitVec 32 := BitVec.ofNat 32 (l.intake.countP LineRecord.isItem)

def Ledger.matched (l : Ledger) : BitVec 32 := (tlist l.matchCounts).foldl (· + ·) 0

def Ledger.balanced (l : Ledger) : Prop :=
  l.received = l.counted + l.notCounted + l.lost + l.items ∧ l.counted = l.matched + l.unrouted

theorem itemsBalance_iff (s : State) : s.itemsBalance ↔ s.ledger.balanced := Iff.rfl

/-- Raising one counter of a list raises the sum by one. -/
theorem foldl_add_set (counts : List (BitVec 32)) (a : BitVec 32) {k : Nat} (hk : k < counts.length) :
    (counts.set k (counts.getD k 0 + 1)).foldl (· + ·) a = counts.foldl (· + ·) a + 1 := by
  induction counts generalizing a k with
  | nil => simp at hk
  | cons c counts ih =>
    cases k with
    | zero =>
      simp only [List.set_cons_zero, List.getD_cons_zero, List.foldl_cons]
      rw [show a + (c + 1) = 1 + (a + c) by ring, List.foldl_assoc, add_comm]
    | succ k =>
      simp only [List.set_cons_succ, List.getD_cons_succ, List.foldl_cons]
      exact ih _ (by simpa using hk)

theorem matched_raised (v : Vector (BitVec 32) 32) {k : Nat} (hk : k < 32) :
    (tlist (tset v k (tget v k 0 + 1))).foldl (· + ·) 0 = (tlist v).foldl (· + ·) 0 + 1 := by
  rw [tlist_tset]
  exact foldl_add_set _ _ (by simpa using hk)

/-- An ITEM at the head of the intake is one of its ITEM records. -/
theorem items_head {l : Ledger} {it : Item} {rest : List LineRecord} (h : l.intake = .item it :: rest) :
    l.items = BitVec.ofNat 32 (rest.countP LineRecord.isItem) + 1 := by
  rw [Ledger.items, h, List.countP_cons_of_pos rfl, BitVec.ofNat_add]
  rfl

theorem items_other {l : Ledger} {r : LineRecord} {rest : List LineRecord} (h : l.intake = r :: rest)
    (hr : r.isItem = false) : l.items = BitVec.ofNat 32 (rest.countP LineRecord.isItem) := by
  rw [Ledger.items, h, List.countP_cons_of_neg (by simp [hr])]

theorem items_append (intake : List LineRecord) (r : LineRecord) :
    BitVec.ofNat 32 ((intake ++ [r]).countP LineRecord.isItem) =
      BitVec.ofNat 32 (intake.countP LineRecord.isItem) + if r.isItem then 1 else 0 := by
  rw [List.countP_append, BitVec.ofNat_add, List.countP_singleton]
  split <;> rfl

theorem act_balanced (l m : Ledger) (h : l.Act m) (hl : l.balanced) : m.balanced := by
  obtain ⟨hreceived, hcounted⟩ := hl
  cases h with
  | watched e => exact ⟨hreceived, hcounted⟩
  | unwatched => exact ⟨hreceived, hcounted⟩
  | owed code hb => exact ⟨hreceived, hcounted⟩
  | paid hb => exact ⟨hreceived, hcounted⟩
  | queued r _ =>
    refine ⟨?_, hcounted⟩
    simp only [Ledger.items, items_append] at *
    split <;> rw [hreceived] <;> ring
  | overrun r =>
    refine ⟨?_, hcounted⟩
    simp only [Ledger.items] at *
    split <;> rw [hreceived]
    ring
  | discarded =>
    refine ⟨?_, hcounted⟩
    simp only [Ledger.items] at *
    rw [hreceived]
    ring
  | taken hr hi =>
    refine ⟨?_, hcounted⟩
    rw [items_other hr hi] at hreceived
    exact hreceived
  | passed hr =>
    refine ⟨?_, hcounted⟩
    rw [items_head hr] at hreceived
    simp only [Ledger.items]
    rw [hreceived]
    ring
  | routed hr hk =>
    rw [items_head hr] at hreceived
    simp only [Ledger.balanced, Ledger.items, Ledger.matched, matched_raised _ hk] at *
    rw [hreceived]
    refine ⟨by ring, ?_⟩
    rw [hcounted]
    ring
  | strayed hr =>
    rw [items_head hr] at hreceived
    simp only [Ledger.balanced, Ledger.items, Ledger.matched] at *
    rw [hreceived]
    refine ⟨by ring, ?_⟩
    rw [hcounted]
    ring
  | cleared => simp [Ledger.balanced, Ledger.items, Ledger.matched]
  | restarted => simp [Ledger.balanced, Ledger.items, Ledger.matched, Ledger.fresh]

/-- Settles O56: every act on the ledger keeps the balance, and a step is acts on it. -/
theorem itemBalanceKept : Obligations.ItemBalanceKept := by
  intro s t hs h
  rw [itemsBalance_iff] at hs ⊢
  exact ledger_step_keeps act_balanced hs h

end Sys2Proof.Machine
end

section
/-! The reads without operands (R48, R49, R53, R126, R172, R180, R185, R187, R188), and the requests on the counters,
the watch and the capture (R46, R47, R50, R70, R189). -/

namespace Sys2Proof.Machine

variable {s : State} {code : Byte}

/-! ### READ CAPTURE (R53) -/

theorem capture_filled_bytes (t : Trigger) (r : CaptureRecord) :
    (Capture.filled t r).bytes = u8 2 ++ (u8 t.level.code ++ indexOrNone t.scope) ++ u8 r.element ++ u8 r.level.code ++
      (match r.source with
        | .item serial destination thickness length =>
            u8 0 ++ u32 serial ++ u16 destination ++ u8 thickness ++ u16 length
        | .run => u8 1
        | .jam => u8 2
        | .setting => u8 3
        | .assign => u8 4) ++ u8 r.mode.code ++ minuteBytes r.minute ++ u32 r.after := by
  cases h : r.source <;>
    simp only [Capture.bytes, CaptureRecord.bytes, Trigger.bytes, MilestoneSource.bytes, h, List.append_assoc]

/-! ### READ SAVE STATUS (R172) -/

/-- READ SAVE STATUS in hand between records, by where the checkpoint stands. -/
theorem readSaveStatus_reads {p : Progress} (h : s.serving .readSaveStatus code)
    (hm : p.midRecord = false) (hp : s.ckpt.progress = p) :
    Replies .readSaveStatus s code s .ok
      (u8 p.code ++ u8 p.cursor ++ u8 (if s.ckpt.pending then 1 else 0) ++ u32 s.ckpt.sequence.toNat ++
        (if p.isWriting then u8 s.ckpt.failedSoFar else []) ++ u8 s.ckpt.lastFailed ++ u8 s.ckpt.outcome.code ++
        u8 s.ckpt.stale ++ u8 s.ckpt.suspects) := by
  subst hp
  exact (execReadSaveStatus_ready hm).trans (request_accepts h rfl)

/-! ### READ HOLDS (R126) -/

theorem slots_bytes (h : HoldUnit) (sample : Nat) :
    (tenum h.slots).flatMap (fun x => HoldSlot.bytes (sample + x.2) x.1) =
      (h.slot 0).bytes (sample + 0) ++ (h.slot 1).bytes (sample + 1) ++ (h.slot 2).bytes (sample + 2) ++
        (h.slot 3).bytes (sample + 3) := by
  rw [tenum_eq_range h.slots .fresh, show List.range 4 = [0, 1, 2, 3] from rfl]
  simp only [List.map_cons, List.map_nil, List.flatMap_cons, List.flatMap_nil, List.append_nil, List.append_assoc]
  rfl

theorem transmitBytes_eq (h : HoldUnit) :
    h.transmitBytes =
      (h.transmit.take 1).flatMap (TxEntry.bytes h.sending) ++ (h.transmit.drop 1).flatMap (TxEntry.bytes false) := by
  unfold HoldUnit.transmitBytes
  split
  · rename_i he
    rw [he]
    rfl
  · rename_i e rest he
    rw [he]
    simp

/-- The bytes of the hold unit, from those of a hold state, of a slot and of an entry of the transmit list. -/
theorem hold_bytes {h : HoldUnit} {sample : Nat} {held : HoldState → List Byte} {slot : Nat → List Byte}
    {entry : Bool → TxEntry → List Byte} (hheld : ∀ x, HoldState.bytes x = held x)
    (hslot : ∀ k, (h.slot k).bytes (sample + k) = slot k) (hentry : ∀ begun e, TxEntry.bytes begun e = entry begun e) :
    h.bytes sample =
      (tlist h.states).flatMap held ++ slot 0 ++ slot 1 ++ slot 2 ++ slot 3 ++ u8 h.waiting.length ++
        h.waiting.flatMap u8 ++ u8 h.transmit.length ++ (h.transmit.take 1).flatMap (entry h.sending) ++
        (h.transmit.drop 1).flatMap (entry false) := by
  obtain rfl : HoldState.bytes = held := funext hheld
  obtain rfl : TxEntry.bytes = entry := funext fun begun => funext (hentry begun)
  rw [HoldUnit.bytes, slots_bytes, transmitBytes_eq, hslot, hslot, hslot, hslot]
  simp only [List.append_assoc]

theorem timerLeft_range {sample started : Nat} (h : 1 ≤ started) :
    1 ≤ timerLeft sample started ∧ timerLeft sample started ≤ started := by
  have := Nat.mod_lt (Config.timerSample sample) h
  unfold timerLeft
  omega

/-- Settles O9: each read answers with its unit's bytes, which are the rule's, by cases where the rule has cases. -/
theorem plainReads : Obligations.PlainReads := by
  refine ⟨fun s code => ⟨fun h => request_accepts h rfl, fun h => request_accepts h rfl, fun h => request_accepts h rfl,
    fun h => ?_, fun h => ?_, fun h => ?_, rfl⟩, fun n => ⟨rfl, rfl, rfl, rfl⟩, ⟨rfl, rfl, rfl, rfl, rfl, rfl⟩,
    fun _ _ h => timerLeft_range h⟩
  · refine ⟨fun hc => ?_, fun t hc => ?_, fun t r hc => ?_⟩
    · exact request_reads h rfl (by rw [hc]; rfl)
    · exact request_reads h rfl (by rw [hc]; rfl)
    · exact request_reads h rfl (by rw [hc]; exact capture_filled_bytes t r)
  · exact ⟨readSaveStatus_reads (p := .idle) h rfl, readSaveStatus_reads (p := .due 0) h rfl,
      fun i hp => readSaveStatus_reads (p := .due (i + 1)) h rfl hp, readSaveStatus_reads (p := .done) h rfl,
      readSaveStatus_reads (p := .failed) h rfl,
      fun copy hp => execReadSaveStatus_waits h.1 h.2.1 (by rw [hp]; rfl)⟩
  · intro held slot entry
    refine request_accepts (u := s.afterSampling) h (congrArg (accept s.afterSampling) ?_)
    refine hold_bytes (held := held) (slot := slot) (entry := entry) (fun x => ?_) (fun k => ?_) fun begun e => ?_
    · cases x <;> rfl
    · cases ht : (s.hold.slot k).timer <;> simp only [HoldSlot.bytes, ht, slot]
    · cases e <;> rfl

/-! ### CLEAR COUNTS and READ ROUTE COUNTS (R46, R70, R189) -/

theorem boolOf?_invalid {n : Nat} (h : 1 < n) : boolOf? n = none := by
  rw [boolOf?_eq, if_neg (by omega)]

/-- Settles O14: the clear and the accounts are the requests' own work. -/
theorem countsCleared : Obligations.CountsCleared := by
  intro s code
  refine ⟨fun h => request_accepts h rfl, fun h => request_accepts h rfl, fun h => request_accepts h rfl,
    fun n hn h => request_refuses h ?_⟩
  simp only [boolOf?_invalid hn]

/-! ### SET WATCH and ARM CAPTURE (R47, R50) -/

theorem elementOrNone?_none : elementOrNone? 255 = some none := rfl

theorem elementOrNone?_index {n : Nat} (h : n ≤ 239) : elementOrNone? n = some (some n) := by
  rw [elementOrNone?, if_neg (by omega), if_pos h]

theorem elementOrNone?_invalid {n : Nat} (h : 239 < n) (h' : n ≠ 255) : elementOrNone? n = none := by
  rw [elementOrNone?, if_neg h', if_neg (Nat.not_le.2 h)]

theorem levelOf?_invalid {n : Nat} (h : 2 < n) : levelOf? n = none := by
  unfold levelOf?
  split
  · omega
  · omega
  · omega
  · rfl

theorem armCaptureWork_invalid {level n : Nat} (h : 2 < level ∨ 239 < n ∧ n ≠ 255) (s : State) :
    armCaptureWork level n s = refuse s .badValue := by
  unfold armCaptureWork
  split
  · rename_i hl hn
    obtain h | ⟨h, h'⟩ := h
    · rw [levelOf?_invalid h] at hl
      cases hl
    · rw [elementOrNone?_invalid h h'] at hn
      cases hn
  · rfl

/-- Settles O20: each request by what its index and its level name. -/
theorem watchAndCapture : Obligations.WatchAndCapture := by
  intro s code n
  refine ⟨fun h => ⟨fun hn hn' => request_refuses h ?_, fun hn => request_accepts h ?_, ?_⟩,
    fun level h => ⟨fun hv => request_refuses h (armCaptureWork_invalid hv s), fun l hl hn => request_accepts h ?_, ?_⟩⟩
  · simp only [setWatchWork, elementOrNone?_invalid hn hn']
  · simp only [setWatchWork, elementOrNone?_index hn, indexOrNone]
  · rintro rfl
    exact request_accepts h rfl
  · simp only [armCaptureWork, hl, elementOrNone?_index hn]
  · rintro l hl rfl
    refine request_accepts h ?_
    simp only [armCaptureWork, hl, elementOrNone?_none]

end Sys2Proof.Machine
end

section
/-! The item key, the match of a route, and the two factors of an item's charge (R35, R36, R55, R57). -/

namespace Sys2Proof.Machine

/-- The fields of the key above the destination are a multiple of 4096 (R55). -/
theorem key_high (thickness : Nat) (reject recirculated : Bool) (h : thickness ≤ 3) :
    (BitVec.ofNat 16 thickness <<< 12) ||| (if reject then 0x4000 else 0) ||| (if recirculated then 0x8000 else 0) =
      BitVec.ofNat 16
        (4096 * (thickness + (if reject then 4 else 0) + if recirculated then 8 else 0)) := by
  have checked : ∀ n < 4, ∀ r c : Bool,
      (BitVec.ofNat 16 n <<< 12) ||| (if r then 0x4000 else 0) ||| (if c then 0x8000 else 0) =
        BitVec.ofNat 16 (4096 * (n + (if r then 4 else 0) + if c then 8 else 0)) := by decide
  exact checked thickness (by omega) reject recirculated

/-- A destination and a multiple of 4096 share no bit. -/
theorem or_multiple {d h : Nat} (hd : d ≤ 4095) (hh : h < 16) :
    (BitVec.ofNat 16 d ||| BitVec.ofNat 16 (4096 * h)).toNat = d + 4096 * h := by
  rw [BitVec.toNat_or, BitVec.toNat_ofNat, BitVec.toNat_ofNat, Nat.mod_eq_of_lt (by omega), Nat.mod_eq_of_lt (by omega),
    Nat.or_comm, add_comm]
  exact (Nat.two_pow_add_eq_or_of_lt (i := 12) (by omega) h).symm

theorem key_toNat (it : Item) (hd : it.destination ≤ 4095) (ht : it.thickness ≤ 3) :
    it.key.toNat = it.destination + 4096 * it.thickness + (if it.reject then 16384 else 0) +
      (if it.recirculated then 32768 else 0) := by
  have hhigh := key_high it.thickness it.reject it.recirculated ht
  rw [Item.key, BitVec.or_assoc, BitVec.or_assoc, ← BitVec.or_assoc (BitVec.ofNat 16 it.thickness <<< 12), hhigh,
    or_multiple hd (by split_ifs <;> omega)]
  split_ifs <;> omega

theorem keyMatches_iff (key pattern mask : BitVec 16) :
    keyMatches key pattern mask = true ↔
      ∀ b < 16, mask.getLsbD b = false → key.getLsbD b = pattern.getLsbD b := by
  rw [keyMatches, beq_iff_eq]
  constructor
  · intro h b hb hm
    have hbit := congrArg (·.getLsbD b) h
    simpa only [BitVec.getLsbD_and, BitVec.getLsbD_xor, BitVec.getLsbD_not, hb, hm, decide_true, Bool.not_false,
      Bool.and_true, BitVec.ofNat_eq_ofNat, BitVec.getLsbD_zero, bne_eq_false_iff_eq] using hbit
  · intro h
    apply BitVec.eq_of_getLsbD_eq
    intro b hb
    cases hm : mask.getLsbD b with
    | false => simp [hm, h b hb hm]
    | true => simp [hm]

theorem lengthFactor_belt (n : Nat) (h : 40 ≤ n) (h' : n ≤ 600) :
    1 ≤ lengthFactor .belt n ∧ lengthFactor .belt n ≤ 6 ∧ n ≤ 100 * lengthFactor .belt n ∧
      100 * lengthFactor .belt n < n + 100 := by
  have hl : lengthFactor .belt n = (n + 99) / 100 := by
    rw [lengthFactor]
    omega
  rw [hl]
  omega

/-- Some BELT of the transport is in BREAK_IN (R36). -/
theorem beltBedding_iff (s : State) (t : Nat) :
    beltBedding s.elements t = true ↔
      ∃ i g, s.fitting? i = some g ∧ g.settings.kind = .belt ∧ g.settings.transport = t ∧ g.state = .breakIn := by
  rw [beltBedding, any_tlist _ .vacant]
  constructor
  · rintro ⟨i, -, h⟩
    split at h
    · rename_i g hg
      refine ⟨i, g, fitting?_eq_some.2 hg, ?_⟩
      simpa [and_assoc] using h
    · cases h
    · cases h
  · rintro ⟨i, g, hg, hk, ht, hb⟩
    refine ⟨i, fitting?_lt hg, ?_⟩
    rw [show (tget s.elements i .vacant).position = .assigned g from fitting?_eq_some.1 hg]
    simp [hk, ht, hb]

theorem slipFactor_slips {s : State} {f : Fitting} (hk : f.settings.kind = .belt)
    (hs : (s.transport f.settings.transport).slip = .slipping)
    (hb : beltBedding s.elements f.settings.transport = false) :
    s.slipFactor f = s.options.slipFactor := by
  rw [State.slipFactor, hk, hs, hb]
  rfl

theorem slipFactor_one {s : State} {f : Fitting} (h : f.settings.kind = .roller ∨
    (s.transport f.settings.transport).slip = .clear ∨ beltBedding s.elements f.settings.transport = true) :
    s.slipFactor f = 1 := by
  rw [State.slipFactor, if_neg]
  rcases h with h | h | h <;> simp [h]

/-- Settles O45: the key by its fields above the destination, the match bit by bit, and the factors by their cases. -/
theorem itemKeysAndFactors : Obligations.ItemKeysAndFactors := by
  refine ⟨key_toNat, fun m key r => ?_, fun _ => rfl, lengthFactor_belt, fun s f => ⟨fun hk hs hb => ?_, fun h => ?_⟩⟩
  · rw [RouteMap.routeMatches, Bool.and_eq_true, keyMatches_iff]
  · exact slipFactor_slips hk hs (Bool.eq_false_iff.2 fun h => hb ((beltBedding_iff s _).1 h))
  · rw [← beltBedding_iff] at h
    exact slipFactor_one h

end Sys2Proof.Machine
end

section
/-! TAKE_RECORD and the divided work of a record and of a tick's run charges (R27 to R30, R32 to R34, R38 to R43, R58 to
R60, R85, R136). -/

namespace Sys2Proof.Machine

variable {s : State}

/-! ### The rows (R27, R101; notes/assumptions/4.md) -/

theorem takeRecord_becomes {u : State} (hp : s.powered = true) (hu : s.takeRecord = u) : Becomes .takeRecord s u :=
  hu ▸ act_powered _ hp

theorem takeRecord_starting (h : s.engine = .starting) : s.takeRecord = s := by
  rw [State.takeRecord, h]

theorem takeRecord_empty (h : s.engine ≠ .starting) (hw : s.wear.work = none) (hi : s.line.intake = []) :
    s.takeRecord = s := by
  rw [State.takeRecord, hw, hi]
  cases he : s.engine with
  | starting => exact absurd he h
  | stopped => rfl
  | counting => rfl

/-- With no work in progress the head record leaves the intake. -/
theorem takeRecord_head {r : LineRecord} {rest : List LineRecord} (h : s.engine ≠ .starting)
    (hw : s.wear.work = none) (hi : s.line.intake = r :: rest) :
    s.takeRecord =
      { s.cutTaken with line := { s.line with intake := rest } }.beginRecord (s.actsAllowed s.cut) r := by
  rw [State.takeRecord, hw, hi]
  cases he : s.engine with
  | starting => exact absurd he h
  | stopped => rfl
  | counting => rfl

/-- Work in progress goes on. -/
theorem takeRecord_work {w : RecordWork} (h : s.engine ≠ .starting) (hw : s.wear.work = some w) :
    s.takeRecord = s.cutTaken.goOn (s.actsAllowed s.cut) := by
  rw [State.takeRecord, hw]
  cases he : s.engine with
  | starting => exact absurd he h
  | stopped => rfl
  | counting => rfl

/-! ### Records taken (R29, R30, R32, R41 to R43) -/

theorem takeMode_eq (s : State) (m : LineMode) :
    s.takeMode m =
      { s with
        wear := { s.wear with mode := m }
        transports := if m = .idle then tmap (fun r => { r with running := false }) s.transports
          else s.transports } := by
  cases m <;> rfl

theorem beginRecord_item_stopped (acts : Option Nat) (it : Item) (h : s.engine = .stopped) :
    s.beginRecord acts (.item it) = { s with wear := { s.wear with notCounted := s.wear.notCounted + 1 } } := by
  rw [State.beginRecord, h]
  rfl

theorem beginRecord_item_counting (acts : Option Nat) (it : Item) (h : s.engine = .counting) :
    s.beginRecord acts (.item it) = (s.routeItem it).itemWork acts it (s.routes.pathFor it.key) [] := by
  rw [State.beginRecord, h]
  rfl

theorem beginRecord_jam_stopped (acts : Option Nat) (t severity : Nat) (h : s.engine = .stopped) :
    s.beginRecord acts (.jam t severity) = s.onTransport t Transport.countJam := by
  rw [State.beginRecord, h]
  rfl

theorem beginRecord_jam_counting (acts : Option Nat) (t severity : Nat) (h : s.engine = .counting) :
    s.beginRecord acts (.jam t severity) = (s.onTransport t Transport.countJam).jamWork acts t severity 0 false := by
  rw [State.beginRecord, h]
  rfl

/-- Settles O38: the head record is taken, and its work begins by its kind and the engine state. -/
theorem recordsTaken : Obligations.RecordsTaken := by
  intro s rest hp left
  refine ⟨fun h => takeRecord_becomes hp (takeRecord_starting h), fun h hw =>
    ⟨fun hi => takeRecord_becomes hp (takeRecord_empty h hw hi), fun m hi => takeRecord_becomes hp ?_,
      fun t drive belt valid hi => takeRecord_becomes hp ?_, fun it hi he => takeRecord_becomes hp ?_,
      fun t severity hi => ⟨fun he => takeRecord_becomes hp ?_, fun he => takeRecord_becomes hp ?_⟩⟩⟩
  · exact (takeRecord_head h hw hi).trans (takeMode_eq _ m)
  · exact takeRecord_head h hw hi
  · exact (takeRecord_head h hw hi).trans (beginRecord_item_stopped _ it he)
  · exact (takeRecord_head h hw hi).trans (beginRecord_jam_stopped _ t severity he)
  · exact (takeRecord_head h hw hi).trans (beginRecord_jam_counting _ t severity he)

/-! ### Items counted (R33, R38, R58 to R60, R85) -/

/-- The first route that matches is chosen (R58). -/
theorem choose_first {m : RouteMap} {key : BitVec 16} {k : Nat} (hk : k < 32)
    (h : m.routeMatches key (m.route k) = true) (hfirst : ∀ j < k, m.routeMatches key (m.route j) = false) :
    m.choose key = some (m.route k, k) := by
  have hfind : (List.range 32).find? (fun j => m.routeMatches key (m.route j)) = some k :=
    List.find?_range_eq_some.2 ⟨h, List.mem_range.2 hk, fun j hj => by rw [hfirst j hj]; rfl⟩
  rw [RouteMap.choose, tenum_eq_range m.routes .empty, List.find?_map]
  exact congrArg (Option.map _) hfind

theorem choose_none {m : RouteMap} {key : BitVec 16} (h : ∀ k < 32, m.routeMatches key (m.route k) = false) :
    m.choose key = none := by
  rw [RouteMap.choose, List.find?_eq_none]
  intro x hx
  obtain ⟨hlt, hget⟩ := (mem_tenum .empty).1 hx
  rw [← hget]
  exact Bool.eq_false_iff.1 (h x.2 hlt)

/-- In COUNTING an ITEM is counted by its route, and its work goes along the common path and the route's (R58). -/
theorem beginRecord_item_routed (acts : Option Nat) {it : Item} {r : Route} {k : Nat} (h : s.engine = .counting)
    (hc : s.routes.choose it.key = some (r, k)) :
    s.beginRecord acts (.item it) =
      State.itemWork
        { s with
          wear := { s.wear with counted := s.wear.counted + 1 }
          routes := { s.routes with
            matchCounts := tset s.routes.matchCounts k (s.routes.matchCount k + 1) } }
        acts it (s.routes.commonPath ++ r.path) [] := by
  rw [beginRecord_item_counting acts it h]
  simp only [State.routeItem, RouteMap.counted, RouteMap.routingAlerts, RouteMap.pathFor, hc, takeAll_nil]

/-- In COUNTING an ITEM that no route matches is counted and reported, and its work goes along the common path (R59). -/
theorem beginRecord_item_unrouted (acts : Option Nat) {it : Item} (h : s.engine = .counting)
    (hc : s.routes.choose it.key = none) :
    s.beginRecord acts (.item it) =
      State.itemWork
        { s with
          wear := { s.wear with counted := s.wear.counted + 1 }
          routes := { s.routes with unrouted := s.routes.unrouted + 1 }
          alerts := s.alerts.take (.raised .unroutedItem it.destination) }
        acts it s.routes.commonPath [] := by
  rw [beginRecord_item_counting acts it h]
  simp only [State.routeItem, RouteMap.counted, RouteMap.routingAlerts, RouteMap.pathFor, hc, takeAll_cons, takeAll_nil]

theorem transport_onTransport (s : State) (t j : Nat) (g : Transport → Transport) :
    (s.onTransport t g).transport j = if t = j ∧ t < 32 then g (s.transport t) else s.transport j :=
  tget_tset _ _ _ _ _

/-- Distinct transports each count one item (R38). -/
theorem transport_countItems (ts : List Nat) (hts : ts.Nodup) (s : State) (t : Nat) (ht : t < 32) :
    (ts.foldl (fun s t => s.onTransport t Transport.countItem) s).transport t =
      if t ∈ ts then (s.transport t).countItem else s.transport t := by
  induction ts generalizing s with
  | nil => simp
  | cons a ts ih =>
    rw [List.nodup_cons] at hts
    rw [List.foldl_cons, ih hts.2, transport_onTransport]
    by_cases h : a = t
    · subst h
      simp [hts.1, ht]
    · simp [h, Ne.symm h]

theorem handOffTransports_frame (u : State) (ts : List Nat) :
    { u.handOffTransports ts with transports := u.transports } = u :=
  foldl_keeps (f := fun (s : State) t => s.onTransport t Transport.countItem)
    (fun s : State => { s with transports := u.transports }) (fun _ _ => rfl) ts.dedup u

/-- Settles O39: the route chosen is the first that matches, and the hand-off counts each transport charged once. -/
theorem itemCounted : Obligations.ItemCounted := by
  refine ⟨fun s it rest hp he hw hi => ?_, fun u ts => ⟨fun t ht => ?_, handOffTransports_frame u ts⟩⟩
  · have taken := takeRecord_head (by rw [he]; decide) hw hi
    refine ⟨fun k hk hm hfirst => takeRecord_becomes hp ?_, fun hn => takeRecord_becomes hp ?_⟩
    · exact taken.trans (beginRecord_item_routed _ he (choose_first hk hm hfirst))
    · exact taken.trans (beginRecord_item_unrouted _ he (choose_none hn))
  · rw [State.handOffTransports, transport_countItems _ (List.nodup_dedup ts) u t ht]
    simp only [List.mem_dedup]
    rfl

/-! ### Work in parts (R27, R28, R34, R38 to R40, R42, R136) -/

theorem rolls_iff (m : MinuteTimer) : m.rolls = true ↔ ∃ carried next, m.boundary = some ⟨carried, .rolling next⟩ := by
  unfold MinuteTimer.rolls
  split <;> simp_all

/-- The first indexes of a pass, fewer than are left. -/
theorem indexesFrom_take {next n : Nat} (h : next + n < 240) : (indexesFrom next).take n = List.range' next n := by
  rw [indexesFrom, show 240 - next = n + (240 - next - n) by omega, ← List.range'_append_1,
    List.take_left' List.length_range']

theorem indexesFrom_take_all {next n : Nat} (h : 240 ≤ next + n) : (indexesFrom next).take n = indexesFrom next := by
  rw [List.take_of_length_le]
  rw [indexesFrom, List.length_range']
  omega

/-- A count of acts that reaches the end of a table pass. -/
theorem reaches_end {next : Nat} {acts : Option Nat} (h : acts = none ∨ ∃ n, acts = some n ∧ 240 ≤ next + n) :
    240 ≤ next + acts.getD 240 := by
  rcases h with rfl | ⟨n, rfl, hn⟩
  · exact Nat.le_add_left _ _
  · exact hn

theorem itemWork_part (s : State) (it : Item) (path charged : List Nat) {n : Nat} (h : n ≤ path.length) :
    s.itemWork (some n) it path charged =
      ((path.take n).foldl (chargePosition it) (s, charged)).1.setWork
        (some (.item it (path.drop n) ((path.take n).foldl (chargePosition it) (s, charged)).2)) :=
  if_pos h

theorem itemWork_end (s : State) (it : Item) (path charged : List Nat) {acts : Option Nat}
    (h : acts = none ∨ ∃ n, acts = some n ∧ path.length < n) :
    s.itemWork acts it path charged =
      ((path.foldl (chargePosition it) (s, charged)).1.handOffTransports
        (path.foldl (chargePosition it) (s, charged)).2).recordDone := by
  have hn : path.length < acts.getD (path.length + 1) := by
    rcases h with rfl | ⟨n, rfl, hn⟩
    · exact Nat.lt_succ_self _
    · exact hn
  rw [State.itemWork, if_neg (by omega), List.take_of_length_le hn.le]

theorem jamWork_part (s : State) (t severity : Nat) (charged : Bool) {next n : Nat} (h : next + n < 240) :
    s.jamWork (some n) t severity next charged =
      State.setWork ((List.range' next n).foldl (jamCharge t severity) s)
        (some (.jam t severity (next + n) (charged || (List.range' next n).any (s.takesJam t)))) := by
  rw [State.jamWork]
  dsimp only [Option.getD_some]
  rw [if_pos h, indexesFrom_take h]

theorem jamWork_end (s : State) (t severity : Nat) (charged : Bool) {next : Nat} {acts : Option Nat}
    (h : 240 ≤ next + acts.getD 240) :
    s.jamWork acts t severity next charged = State.recordDone ((indexesFrom next).foldl (jamCharge t severity) s) := by
  rw [State.jamWork, if_neg (by omega), indexesFrom_take_all h]

theorem takesJam_iff (s : State) (t i : Nat) :
    s.takesJam t i = true ↔ ∃ f, s.fitting? i = some f ∧ f.settings.transport = t ∧
      s.wear.mode.counts f.settings.modeSet = true := by
  unfold State.takesJam
  cases s.fitting? i <;> simp

theorem runOn_none (h : s.timer.runs = none) (examined : Option Nat) : s.runOn examined = s := by
  rw [State.runOn, h]

theorem runOn_part {carried : Option Nat} {next n : Nat} (hr : s.timer.runs = some ⟨carried, next⟩)
    (h : next + n < 240) :
    s.runOn (some n) =
      let u := (List.range' next n).foldl (runCharge carried) s
      { u with timer := { u.timer with runs := some ⟨carried, next + n⟩ } } := by
  simp only [State.runOn, hr, Option.getD_some, if_pos h, indexesFrom_take h]

theorem runOn_end {carried : Option Nat} {next : Nat} {acts : Option Nat} (hr : s.timer.runs = some ⟨carried, next⟩)
    (h : 240 ≤ next + acts.getD 240) :
    s.runOn acts =
      let u := (indexesFrom next).foldl (runCharge carried) s
      { u with timer := { u.timer with runs := none } } := by
  simp only [State.runOn, hr, if_neg (Nat.not_lt.2 h), indexesFrom_take_all h]

theorem recordDone_eq (s : State) :
    s.recordDone =
      { s with
        wear := { s.wear with work := none }
        timer := { s.timer with
          boundary := match s.timer.boundary with
            | some ⟨carried, .waits⟩ => some ⟨carried, .rolling 0⟩
            | other => other } } := by
  have hb : s.timer.boundary.map BoundaryMark.afterRecord = match s.timer.boundary with
      | some ⟨carried, .waits⟩ => some ⟨carried, .rolling 0⟩
      | other => other := by
    rcases s.timer.boundary with _ | ⟨carried, _ | _ | next⟩ <;> rfl
  rw [State.recordDone, hb]
  rfl

theorem goOn_item {it : Item} {path charged : List Nat} (h : s.wear.work = some (.item it path charged))
    (acts : Option Nat) : s.goOn acts = (s.setWork none).itemWork acts it path charged := by
  rw [State.goOn, h]

theorem goOn_jam {t severity next : Nat} {charged : Bool} (h : s.wear.work = some (.jam t severity next charged))
    (acts : Option Nat) : s.goOn acts = (s.setWork none).jamWork acts t severity next charged := by
  rw [State.goOn, h]

theorem goOn_none (h : s.wear.work = none) (acts : Option Nat) : s.goOn acts = s := by
  rw [State.goOn, h]

/-- A tick with run charges left goes on with them (R40). -/
theorem minuteTick_runs {pass : RunPass} (hp : s.powered = true) (ht : s.timer.running = true)
    (hr : s.timer.runs = some pass) : Becomes .minuteTick s (s.cutTaken.runOn s.cut) := by
  refine (act_powered _ hp).trans ?_
  rw [if_pos ht, State.takeTick, show s.cutTaken.timer.runs = some pass from hr]

/-- Settles O40: each divided operation, part way and to its end. -/
theorem workInParts : Obligations.WorkInParts := by
  refine ⟨fun s => ⟨rolls_iff _, rfl, fun acts h => if_pos h, fun acts h => ?_⟩,
    fun s hp => ⟨fun he => ⟨fun it path charged hw => takeRecord_becomes hp ?_,
      fun t severity next charged hw => takeRecord_becomes hp ?_⟩, fun pass ht hr => minuteTick_runs hp ht hr⟩,
    fun s it path charged => ⟨fun n hn => itemWork_part s it path charged hn,
      fun acts h => itemWork_end s it path charged h⟩,
    fun s t severity next charged => ⟨fun n hn => jamWork_part s t severity charged hn,
      fun acts h => jamWork_end s t severity charged (reaches_end h), takesJam_iff s t⟩,
    recordDone_eq, fun s => ⟨runOn_none, fun carried next hr => ⟨fun n hn => runOn_part hr hn,
      fun acts h => runOn_end hr (reaches_end h)⟩⟩⟩
  · exact if_neg (by rw [h]; decide)
  · exact (takeRecord_work he hw).trans (goOn_item (s := s.cutTaken) hw _)
  · exact (takeRecord_work he hw).trans (goOn_jam (s := s.cutTaken) hw _)

end Sys2Proof.Machine
end

section
/-! The minute tick and its deliveries: what each block does with a tick, what is left outstanding, and the boundary at
its two blocks (R28, R39, R40, R87, R88, R120, R128, R129, R131, R135 to R137, R145; notes/assumptions/4.md, 5.md). -/

namespace Sys2Proof.Machine

variable {s : State}

/-! ### The plan unit's tick (R145) -/

/-- The queue empties, each cost returned, and PLAN_UNPLACED ends where it held. -/
theorem takePlan_emptied (s : State) :
    s.takePlan s.plan.emptied =
      { s with
        plan := { windows := tmap (fun x => x.map fun w => { w with used := 0, pinnedLoad := 0 }) s.plan.windows
                  queue := [] }
        alerts := if s.plan.queue.any (fun e => e.unplaced) then
            s.alerts.take (.conditionEnded .planUnplaced)
          else s.alerts } := by
  have hends : settleEnd s.plan ⟨zeroLoads s.plan.windows, []⟩ =
      if s.plan.queue.any PlanEntry.unplaced then [.conditionEnded .planUnplaced] else [] := by
    simp [settleEnd, PlanUnit.anyUnplaced]
  simp only [State.takePlan, PlanUnit.emptied, hends]
  split <;> rfl

theorem someEnded_iff (p : PlanUnit) (c : Nat) :
    p.someEnded c = true ↔ ∃ k < 8, ∃ w, p.window k = some w ∧ w.start + w.length ≤ c := by
  rw [PlanUnit.someEnded, any_tlist _ none]
  refine exists_congr fun k => and_congr_right fun _ => ?_
  cases hw : tget p.windows k none with
  | none => simp [PlanUnit.window, hw]
  | some w =>
    simp only [PlanUnit.window, hw, Option.some.injEq, exists_eq_left']
    exact decide_eq_true_iff

section NoneEnded

variable {p : PlanUnit} {c : Nat} (h : ∀ k w, p.window k = some w → c < w.start + w.length)
include h

theorem window_not_ended {k : Nat} {w : Window} (hw : p.window k = some w) : w.ended c = false :=
  decide_eq_false (Nat.not_le.2 (h k w hw))

theorem someEnded_eq_false : p.someEnded c = false := by
  rw [Bool.eq_false_iff, Ne, someEnded_iff]
  rintro ⟨k, -, w, hw, hc⟩
  exact absurd (h k w hw) (Nat.not_lt.2 hc)

theorem inEnded_eq_false (e : PlanEntry) : p.inEnded c e = false := by
  unfold PlanUnit.inEnded
  split
  · split
    · exact window_not_ended h ‹_›
    · rfl
  · rfl

theorem missed_eq_nil : p.missed c = [] := by
  rw [PlanUnit.missed, List.filter_eq_nil_iff.2 fun e _ => by simp [inEnded_eq_false h e]]
  rfl

theorem dropEnded_self : p.dropEnded c = p := by
  have hqueue : (p.queue.map fun e => if p.inEnded c e then e.offWindow else e) = p.queue := by
    simp only [inEnded_eq_false h, Bool.false_eq_true, if_false, List.map_id']
  have hwindows : tmap (fun w => match w with | some w => if Window.ended c w then none else some w | none => none)
      p.windows = p.windows := by
    refine tget_ext none fun k _ => ?_
    rw [tget_tmap_default _ _ _ _ rfl]
    cases hw : tget p.windows k none with
    | none => rfl
    | some w => simp only [window_not_ended h hw, Bool.false_eq_true, if_false]
  rw [PlanUnit.dropEnded, hqueue]
  exact congrArg (fun ws => (⟨ws, p.queue⟩ : PlanUnit)) hwindows

end NoneEnded

theorem tickPlan_unset (s : State) :
    s.tickPlan none =
      { s with
        plan := { windows := tmap (fun x => x.map fun w => { w with used := 0, pinnedLoad := 0 }) s.plan.windows
                  queue := [] }
        alerts := if s.plan.queue.any (fun e => e.unplaced) then
            s.alerts.take (.conditionEnded .planUnplaced)
          else s.alerts } :=
  takePlan_emptied s

/-- An ended window waits for WINDOW_EXPIRY. -/
theorem tickPlan_ended {c : Nat} (h : ∃ k < 8, ∃ w, s.plan.window k = some w ∧ w.start + w.length ≤ c) :
    s.tickPlan (some c) = { s with timer := { s.timer with planTick := some (some c) } } :=
  if_pos ((someEnded_iff _ _).2 h)

/-- With no window ended the queue is ordered at the new minute. -/
theorem tickPlan_orders {c : Nat} (h : ∀ k w, s.plan.window k = some w → c < w.start + w.length) :
    s.tickPlan (some c) = { s with plan := { s.plan with queue := orderEntries c s.plan.queue } } := by
  refine (if_neg (by rw [someEnded_eq_false h]; decide)).trans ?_
  rw [PlanUnit.tick, dropEnded_self h, missed_eq_nil h]
  rfl

/-! ### Deliveries outstanding (R120, R145) -/

theorem deliverPlanTick_none (h : s.timer.planTick = none) : s.deliverPlanTick = s := by
  rw [State.deliverPlanTick, h]

theorem deliverPlanTick_unset (h : s.timer.planTick = some none) :
    s.deliverPlanTick =
      { s with
        timer := { s.timer with planTick := none }
        plan := { windows := tmap (fun x => x.map fun w => { w with used := 0, pinnedLoad := 0 }) s.plan.windows
                  queue := [] }
        alerts := if s.plan.queue.any (fun e => e.unplaced) then
            s.alerts.take (.conditionEnded .planUnplaced)
          else s.alerts } := by
  rw [State.deliverPlanTick, h]
  exact takePlan_emptied { s with timer := { s.timer with planTick := none } }

theorem deliverPlanTick_set {c : Nat} (h : s.timer.planTick = some (some c)) :
    s.deliverPlanTick =
      { s with
        timer := { s.timer with planTick := none }
        plan := (s.plan.dropEnded c).reorder c
        alerts := s.alerts.takeAll (s.plan.missed c) } := by
  rw [State.deliverPlanTick, h]
  rfl

theorem deliverHoldTick_none (h : s.timer.holdTick = false) : s.deliverHoldTick = s :=
  if_neg (by rw [h]; decide)

theorem deliverHoldTick_due (h : s.timer.holdTick = true) :
    s.deliverHoldTick =
      { s with timer := { s.timer with holdTick := false }, hold := s.hold.tick s.arbiterOn s.wish } :=
  if_pos h

theorem deliverSnapshot_none (h : s.timer.snapshot = false) : s.deliverSnapshot = s :=
  if_neg (by rw [h]; decide)

theorem deliverSnapshot_due (h : s.timer.snapshot = true) :
    s.deliverSnapshot =
      { s with
        timer := { s.timer with snapshot := false }
        transports := tmap (fun r => { r with snapshot := r.live, live := ⟨0, 0, 0, 0, 0⟩ }) s.transports
        snapshotTaken := true } :=
  if_pos h

/-! ### The boundary at the element table (R28, R40, R135 to R137) -/

theorem recordCharged_iff (s : State) :
    s.recordCharged = true ↔
      (∃ it path ts, s.wear.work = some (.item it path ts) ∧ ts ≠ []) ∨
        ∃ t severity next, s.wear.work = some (.jam t severity next true) := by
  unfold State.recordCharged
  rcases s.wear.work with _ | ⟨it, path, ts⟩ | ⟨t, severity, next, charged⟩ <;> simp [RecordWork.charged]

theorem deliverRoll_none (h : s.timer.boundary = none) (examined : Option Nat) : s.deliverRoll examined = s := by
  rw [State.deliverRoll, h]

theorem deliverRoll_rolling {carried : Option Nat} {next : Nat} (h : s.timer.boundary = some ⟨carried, .rolling next⟩)
    (examined : Option Nat) : s.deliverRoll examined = s.rollOn carried next examined := by
  rw [State.deliverRoll, h]

/-- A boundary that has not begun to roll: the run charges, then the roll, unless a record charged is waited for. -/
theorem deliverRoll_begins {carried : Option Nat} {phase : RollPhase} (h : s.timer.boundary = some ⟨carried, phase⟩)
    (hp : ∀ next, phase ≠ .rolling next) (examined : Option Nat) :
    s.deliverRoll examined =
      if (s.runOn none).recordCharged then (s.runOn none).setBoundary (some ⟨carried, .waits⟩)
      else (s.runOn none).rollOn carried 0 examined := by
  rw [State.deliverRoll, h]
  cases phase with
  | due => rfl
  | waits => rfl
  | rolling next => exact absurd rfl (hp next)

theorem rollOn_part (s : State) (carried : Option Nat) {next n : Nat} (h : next + n < 240) :
    s.rollOn carried next (some n) =
      { s with
        elements := rollTable s.options.intervalLength carried next n s.elements
        timer := { s.timer with boundary := some ⟨carried, .rolling (next + n)⟩ } } :=
  if_pos h

theorem rollOn_end (s : State) (carried : Option Nat) {next : Nat} {examined : Option Nat}
    (h : 240 ≤ next + examined.getD 240) :
    s.rollOn carried next examined =
      State.rollComplete
        { s with
          elements := rollTable s.options.intervalLength carried next (examined.getD 240) s.elements
          timer := { s.timer with boundary := none } } :=
  if_neg (Nat.not_lt.2 h)

theorem rollComplete_saves (he : s.engine = .counting) (ha : s.options.autoSave = true) :
    s.rollComplete = s.replan.triggerCheckpoint :=
  if_pos (by rw [he, ha]; rfl)

theorem rollComplete_only (h : s.engine ≠ .counting ∨ s.options.autoSave = false) : s.rollComplete = s.replan := by
  refine if_neg ?_
  rw [Bool.and_eq_true, beq_iff_eq]
  rintro ⟨he, ha⟩
  rcases h with h | h
  · exact h he
  · rw [h] at ha
    cases ha

theorem onFitting_eq (g : Fitting → Fitting) (e : Element) :
    e.onFitting g = match e with
      | ⟨generation, .assigned f⟩ => ⟨generation, .assigned (g f)⟩
      | other => other := by
  rcases e with ⟨generation, _ | _ | f⟩ <;> rfl

theorem tget_rollTable (L : Nat) (carried : Option Nat) (first count : Nat) (es : Vector Element 240) {i : Nat}
    (hi : i < 240) :
    tget (rollTable L carried first count es) i .vacant =
      if first ≤ i ∧ i < first + count then (tget es i .vacant).onFitting (Fitting.rolled L carried)
      else tget es i .vacant :=
  tget_tslice _ _ _ _ _ hi

theorem finishBoundary_none (h : s.timer.boundary = none) : s.finishBoundary = s.deliverSnapshot := by
  rw [State.finishBoundary, h]

theorem finishBoundary_rolling {carried : Option Nat} {next : Nat}
    (h : s.timer.boundary = some ⟨carried, .rolling next⟩) : s.finishBoundary = s.deliverSnapshot.deliverRoll none := by
  rw [State.finishBoundary, h]

/-- A boundary that has not begun to roll is taken to its end with the record it waits for. -/
theorem finishBoundary_begins {carried : Option Nat} {phase : RollPhase}
    (h : s.timer.boundary = some ⟨carried, phase⟩) (hp : ∀ next, phase ≠ .rolling next) :
    s.finishBoundary =
      (if (s.deliverSnapshot.runOn none).recordCharged then (s.deliverSnapshot.runOn none).goOn none
        else s.deliverSnapshot.runOn none).deliverRoll none := by
  rw [State.finishBoundary, h]
  cases phase with
  | due => rfl
  | waits => rfl
  | rolling next => exact absurd rfl (hp next)

/-! ### INTERVAL_BOUNDARY (notes/assumptions/4.md) -/

theorem takeBoundary_none (hb : s.timer.boundary = none) (hs : s.timer.snapshot = false) : s.takeBoundary = s :=
  if_pos (by rw [hb, hs]; rfl)

/-- A boundary outstanding is taken as far as the schedule says. -/
theorem takeBoundary_due (h : s.timer.boundary ≠ none ∨ s.timer.snapshot = true) :
    s.takeBoundary = match s.cut with
      | none => s.cutTaken.deliverSnapshot.deliverRoll none
      | some 0 => s.cutTaken.deliverSnapshot
      | some (n + 1) => s.cutTaken.deliverRoll (some n) := by
  refine (if_neg ?_).trans rfl
  rw [Bool.and_eq_true, Option.isNone_iff_eq_none, Bool.not_eq_true']
  rintro ⟨hb, hs⟩
  rcases h with h | h
  · exact h hb
  · rw [hs] at h
    cases h

/-- Settles O49: each delivery by what stands outstanding. -/
theorem tickDeliveries : Obligations.TickDeliveries := by
  refine ⟨fun s hp => ?_, fun s => ⟨deliverSnapshot_none, deliverSnapshot_due⟩, fun s examined => ?_,
    fun s carried next => ?_, fun s => ?_⟩
  · have becomes : ∀ {i : Instr} {f : State → State} {u : State}, (exec i s = s.act f) → f s = u → Becomes i s u :=
      fun hi hf => hi.trans (hf ▸ act_powered _ hp)
    refine ⟨fun h => becomes rfl (deliverHoldTick_none h), fun h => becomes rfl (deliverHoldTick_due h),
      fun h => becomes rfl (deliverPlanTick_none h), fun c h => becomes rfl (deliverPlanTick_set h),
      fun hb hs => becomes rfl (takeBoundary_none hb hs),
      fun h => ⟨fun hc => becomes rfl ?_, fun hc => becomes rfl ?_, fun n hc => becomes rfl ?_⟩⟩
    · rw [takeBoundary_due h, hc]; rfl
    · rw [takeBoundary_due h, hc]; rfl
    · rw [takeBoundary_due h, hc]; rfl
  · refine ⟨fun h => deliverRoll_none h examined, fun carried next h => deliverRoll_rolling h examined,
      fun carried phase h hin => ?_, recordCharged_iff s⟩
    have hphase : ∀ next, phase ≠ .rolling next := by
      rintro next rfl
      rw [h] at hin
      cases hin
    refine ⟨fun hc => ?_, fun hc => ?_⟩
    · exact (deliverRoll_begins h hphase examined).trans (if_pos hc)
    · exact (deliverRoll_begins h hphase examined).trans (if_neg (by rw [hc]; decide))
  · refine ⟨fun n hn => rollOn_part s carried hn, ?_, fun n i hi => ?_⟩
    · rintro examined n rfl hn
      exact ⟨fun he ha => (rollOn_end s carried hn).trans (rollComplete_saves he ha),
        fun h => (rollOn_end s carried hn).trans (rollComplete_only h)⟩
    · rw [tget_rollTable _ _ _ _ _ hi, onFitting_eq]
      rfl
  · refine ⟨finishBoundary_none, fun carried next h => finishBoundary_rolling h, fun carried phase h hphase => ?_,
      fun acts => ⟨fun h => goOn_none h acts, fun it path ts h => goOn_item h acts,
        fun t severity next charged h => goOn_jam h acts⟩⟩
    refine ⟨fun hc => (finishBoundary_begins h hphase).trans ?_, fun hc => (finishBoundary_begins h hphase).trans ?_⟩
    · rw [if_pos hc]
    · rw [if_neg (by rw [hc]; decide)]

/-! ### MINUTE_TICK (R39, R87, R120, R128, R129, R131, R145) -/

/-- The minute of a tick, of a clock within its range (R128, R131). -/
theorem advancedClock_eq (clock : Option Nat) : (∀ c, clock = some c → c ≤ 4294967294) →
    advancedClock clock = match clock with
      | some c => if c = 4294967294 then none else some (c + 1)
      | none => none := by
  intro h
  cases clock with
  | none => rfl
  | some c =>
    have hlast : maxMinute ≤ c ↔ c = 4294967294 := ⟨fun hm => Nat.le_antisymm (h c rfl) hm, fun hm => hm.ge⟩
    simp only [advancedClock, hlast]

theorem takeAll_clockAlerts (a : AlertUnit) (before after : Option Nat) :
    a.takeAll (clockAlerts before after) =
      if before ≠ none ∧ after = none then a.take (.conditionSet .clockUnset 0 true) else a := by
  cases before <;> cases after <;> rfl

theorem countTick_eq {carried : Option Nat} (h : advancedClock s.clock = carried) :
    s.countTick =
      let ends : Bool := s.options.intervalLength ≤ s.timer.intervalCount + 1
      { s with
        clock := carried
        timer := { s.timer with
          intervalCount := if ends then 0 else s.timer.intervalCount + 1
          runs := if s.engine = .counting then some ⟨carried, 0⟩ else none
          boundary := if ends then some ⟨carried, .due⟩ else none
          snapshot := ends }
        alerts := if s.clock ≠ none ∧ carried = none then s.alerts.take (.conditionSet .clockUnset 0 true)
          else s.alerts } := by
  subst h
  rw [← takeAll_clockAlerts]
  simp only [State.countTick, beq_iff_eq]

/-- Running minutes at the transport monitor, and the countdowns at the hold unit (R87, R120). -/
theorem tickHolds_eq (u : State) :
    (u.onTransports Transport.countMinute).tickHolds =
      { u with
        timer := if u.hold.tickEnds then { u.timer with holdTick := true } else u.timer
        hold := if u.hold.tickEnds then u.hold else u.hold.countDown
        transports := tmap Transport.countMinute u.transports } := by
  unfold State.tickHolds
  cases h : u.hold.tickEnds <;> simp [h, State.onTransports]

/-- With nothing outstanding of the last tick there is nothing to finish. -/
theorem finishTick_none (hh : s.timer.holdTick = false) (hp : s.timer.planTick = none) (hb : s.timer.boundary = none)
    (hs : s.timer.snapshot = false) : s.finishTick = s := by
  rw [State.finishTick, deliverPlanTick_none hp, deliverHoldTick_none hh, finishBoundary_none hb,
    deliverSnapshot_none hs]

/-- A tick is what is outstanding, the clock and counts, the run charges, and the three units, in that order. -/
theorem minuteTick_becomes {u : State} (hp : s.powered = true) (ht : s.timer.running = true) (hr : s.timer.runs = none)
    (hu : State.tickPlan (((s.cutTaken.finishTick.countTick.runOn s.cut).onTransports Transport.countMinute).tickHolds)
      s.cutTaken.finishTick.countTick.clock = u) : Becomes .minuteTick s u := by
  refine (act_powered _ hp).trans ?_
  rw [if_pos ht, State.takeTick, show s.cutTaken.timer.runs = none from hr]
  exact congrArg (fun v : State => Host.Outcome.next v.arbitrate) hu

theorem minuteTick_stopped (hp : s.powered = true) (ht : s.timer.running = false) : Becomes .minuteTick s s := by
  refine (act_powered _ hp).trans ?_
  rw [if_neg (by rw [ht]; decide)]

/-- Settles O48: the tick block by block, after what the last one left outstanding. -/
theorem minuteTick : Obligations.MinuteTick := by
  refine ⟨fun s hp => ?_, fun s => ⟨rfl, deliverPlanTick_none, deliverPlanTick_unset, fun c => deliverPlanTick_set,
    deliverHoldTick_none, deliverHoldTick_due⟩⟩
  intro begun d
  refine ⟨minuteTick_stopped hp, finishTick_none (s := begun), fun ht hr hc => ?_⟩
  intro carried ends counted u endsHold fallen timed
  have hcarried : advancedClock d.clock = carried := advancedClock_eq d.clock hc
  have hcounted : d.countTick = counted := countTick_eq hcarried
  have htimed : (u.onTransports Transport.countMinute).tickHolds = timed := tickHolds_eq u
  have becomes : ∀ {v : State}, timed.tickPlan carried = v → Becomes .minuteTick s v := by
    intro v hv
    refine minuteTick_becomes hp ht hr ?_
    show State.tickPlan (((d.countTick.runOn s.cut).onTransports Transport.countMinute).tickHolds) d.countTick.clock = v
    rw [hcounted]
    exact (congrArg (State.tickPlan · carried) htimed).trans hv
  refine ⟨fun hn => becomes ?_, fun c hs => ⟨fun hended => becomes ?_, fun hnone => becomes ?_⟩⟩
  · rw [hn]
    exact tickPlan_unset timed
  · rw [hs]
    exact tickPlan_ended (s := timed) hended
  · rw [hs]
    exact tickPlan_orders (s := timed) hnone

end Sys2Proof.Machine
end

section
/-! Edits of the route map: SET MASK, SET ROUTE, CLEAR ROUTE and SET COMMON PATH (R63 to R67). -/

namespace Sys2Proof.Machine

variable {s : State} {code : Byte}

/-! ### Edits (R63) -/

theorem editMap_counting (h : s.engine = .counting) (ok : Bool) (edited : RouteMap) (reply : List Byte) :
    s.editMap ok edited reply = refuse s .wrongState := by
  rw [State.editMap, h]
  rfl

theorem editMap_idle (h : s.engine ≠ .counting) (ok : Bool) (edited : RouteMap) (reply : List Byte) :
    s.editMap ok edited reply = if ok then accept { s with routes := edited } reply else refuse s .badValue :=
  if_neg fun hc => h (beq_iff_eq.1 hc)

/-- What an edit in hand does: refused in COUNTING, else judged by its values (R63). -/
theorem edit_answers {i : Instr} {ok : Bool} {edited : RouteMap} {reply : List Byte} {work : State → Answer}
    (h : s.serving i code) (hexec : exec i s = s.request i work) (hwork : work s = s.editMap ok edited reply) :
    (s.engine = .counting → Refuses i s code .wrongState) ∧
      (s.engine ≠ .counting → ok = false → Refuses i s code .badValue) ∧
      (s.engine ≠ .counting → ok = true → Replies i s code { s with routes := edited } .ok reply) := by
  refine ⟨fun hc => ?_, fun hc hok => ?_, fun hc hok => ?_⟩
  · exact hexec.trans (request_refuses h (hwork.trans (editMap_counting hc _ _ _)))
  · exact hexec.trans (request_refuses h (by rw [hwork, editMap_idle hc, hok]; rfl))
  · exact hexec.trans (request_accepts h (by rw [hwork, editMap_idle hc, if_pos hok]))

/-! ### Values (R65, R67) -/

theorem pathOk_iff {path : List Nat} : pathOk path = true ↔ path.length ≤ 16 ∧ ∀ i ∈ path, i ≤ 239 := by
  simp only [pathOk, lastElement, Bool.and_eq_true, decide_eq_true_eq, List.all_eq_true]

theorem pathOk_eq_false_iff {path : List Nat} : pathOk path = false ↔ 16 < path.length ∨ ∃ i ∈ path, 239 < i := by
  rw [Bool.eq_false_iff, ne_eq, pathOk_iff, not_and_or]
  simp only [not_le, not_forall, exists_prop]

/-! ### The four edits (R64 to R67) -/

/-- Settles O21: `edit_answers` for each edit, with the values it checks. -/
theorem routeEdits : Obligations.RouteEdits := by
  intro s code n
  refine ⟨fun value h => ?mask, fun enabled pattern maskIndex path h => ?route, fun h => ?clear, fun path h => ?common⟩
  case mask =>
    obtain ⟨counting, invalid, valid⟩ := edit_answers h rfl rfl
    exact ⟨counting, fun hc hn => invalid hc (decide_eq_false (Nat.not_le.2 hn)),
      fun hc hn => valid hc (decide_eq_true hn)⟩
  case route =>
    obtain ⟨counting, invalid, valid⟩ := edit_answers h rfl rfl
    refine ⟨counting, fun hc hbad => invalid hc ?_, fun hc hn he hm hl hp => valid hc ?_⟩
    · simpa only [Bool.and_eq_false_iff, decide_eq_false_iff_not, not_le, pathOk_eq_false_iff, or_assoc] using hbad
    · simp only [Bool.and_eq_true, decide_eq_true_eq, pathOk_iff]
      exact ⟨⟨⟨hn, he⟩, hm⟩, hl, hp⟩
  case clear =>
    obtain ⟨counting, invalid, valid⟩ := edit_answers h rfl rfl
    exact ⟨counting, fun hc hn => invalid hc (decide_eq_false (Nat.not_le.2 hn)),
      fun hc hn => valid hc (decide_eq_true hn)⟩
  case common =>
    obtain ⟨counting, invalid, valid⟩ := edit_answers h rfl rfl
    exact ⟨counting, fun hc hbad => invalid hc (pathOk_eq_false_iff.2 hbad),
      fun hc hl hp => valid hc (pathOk_iff.2 ⟨hl, hp⟩)⟩

end Sys2Proof.Machine
end

section
/-! The transport law (R76, R77, R79, R80): every row keeps it. -/

namespace Sys2Proof.Machine

variable {s : State}

/-! ### The monitor's table -/

theorem onTransport_transportsLawful (hs : s.transportsLawful) (t : Nat) {g : Transport → Transport}
    (hg : ∀ r, r.lawful → (g r).lawful) : (s.onTransport t g).transportsLawful :=
  transportsLawful_of_tset (onTransport_transports s t g) hs (hg _ (hs t))

theorem onTransports_transportsLawful (hs : s.transportsLawful) {g : Transport → Transport}
    (hg : ∀ r, r.lawful → (g r).lawful) : (s.onTransports g).transportsLawful :=
  transportsLawful_of_tmap (onTransports_transports s g) hg hs

/-- Every transport's record is fresh once a start-up begins, and after a loss of power (R71, R173). -/
theorem fresh_transportsLawful (h : s.transports = Vector.replicate 32 .fresh) : s.transportsLawful :=
  (transportsLawful_iff s).2 fun r hr => by
    rw [h, tlist_replicate] at hr
    rw [List.eq_of_mem_replicate hr]
    exact fresh_transport_lawful

theorem takeSample_transportsLawful (hs : s.transportsLawful) (t drive belt : Nat) (valid : Bool) :
    (s.takeSample t drive belt valid).transportsLawful :=
  transportsLawful_of_tset (takeSample_transports s t drive belt valid) hs (sample_lawful (hs t) _ _ _ _)

/-- A MODE IDLE halts every transport (R30, R86). -/
theorem takeMode_transportsLawful (hs : s.transportsLawful) (m : LineMode) : (s.takeMode m).transportsLawful := by
  have hm : State.transportsLawful { s with wear := { s.wear with mode := m } } := hs
  unfold State.takeMode
  split
  · exact onTransports_transportsLawful hm fun _ => halt_lawful
  · exact hm

/-! ### The host link's share and the boundary's -/

theorem transportsLawful_host : KeptByHost State.transportsLawful where
  chosen s := transportsLawful_congr (arbitrate_transports s)
  inHand _ _ := transportsLawful_congr rfl
  frame _ _ := transportsLawful_congr rfl

theorem transportsLawful_boundary : KeptByBoundary State.transportsLawful where
  charges s i f c _ := transportsLawful_congr (applyCharge_transports s i f c)
  work _ _ := transportsLawful_congr rfl
  done _ := transportsLawful_congr rfl
  counted _ t hs := onTransport_transportsLawful hs t fun _ => countItem_lawful
  timer _ _ := transportsLawful_congr rfl
  rolled _ _ _ _ _ := transportsLawful_congr rfl
  closed _ hs := onTransports_transportsLawful hs fun _ => closeInterval_lawful
  replanned _ := transportsLawful_congr rfl
  triggered s := transportsLawful_congr (triggerCheckpoint_transports s)

/-! ### Records taken (R27, R30, R43) -/

theorem beginRecord_transportsLawful (hs : s.transportsLawful) (acts : Option Nat) (r : LineRecord) :
    (s.beginRecord acts r).transportsLawful := by
  have worked := transportsLawful_boundary.toKeptByWork
  cases r with
  | item it =>
    rw [State.beginRecord]
    split
    · exact itemWork_keeps worked _ _ _ _ _ (transportsLawful_congr rfl hs)
    · exact transportsLawful_congr rfl hs
  | mode m => exact takeMode_transportsLawful hs m
  | tach t drive belt valid => exact takeSample_transportsLawful hs t drive belt valid
  | jam t severity =>
    have counted := onTransport_transportsLawful hs t fun _ => countJam_lawful
    rw [State.beginRecord]
    split
    · exact jamWork_keeps worked _ _ _ _ _ _ counted
    · exact counted

theorem takeRecord_transportsLawful (hs : s.transportsLawful) : s.takeRecord.transportsLawful := by
  unfold State.takeRecord
  split
  · exact hs
  · exact goOn_keeps transportsLawful_boundary.toKeptByWork _ _ (transportsLawful_congr rfl hs)
  · refine beginRecord_transportsLawful ?_ _ _
    exact transportsLawful_congr rfl hs
  · exact hs

/-! ### Time (R40, R87, R88, R128) -/

theorem minuteTick_transportsLawful (hs : s.transportsLawful) (examined : Option Nat) :
    (s.minuteTick examined).transportsLawful := by
  have delivered : s.deliverPlanTick.deliverHoldTick.transportsLawful := transportsLawful_congr (by simp) hs
  have finished : s.finishTick.transportsLawful := transportsLawful_boundary.finishBoundary delivered
  have counted : s.finishTick.countTick.transportsLawful := transportsLawful_congr rfl finished
  have timed := onTransports_transportsLawful (transportsLawful_boundary.runOn counted examined)
    fun _ => countMinute_lawful
  exact transportsLawful_congr (by simp [State.minuteTick]) timed

theorem takeTick_transportsLawful (hs : s.transportsLawful) (examined : Option Nat) :
    (s.takeTick examined).transportsLawful := by
  unfold State.takeTick
  split
  · exact transportsLawful_boundary.runOn hs examined
  · exact minuteTick_transportsLawful hs examined

theorem takeBoundary_transportsLawful (hs : s.transportsLawful) : s.takeBoundary.transportsLawful := by
  have kept := transportsLawful_boundary
  have begun : s.cutTaken.transportsLawful := transportsLawful_congr rfl hs
  unfold State.takeBoundary
  split
  · exact hs
  · split
    · exact kept.deliverRoll (kept.deliverSnapshot begun) _
    · exact kept.deliverSnapshot begun
    · exact kept.deliverRoll begun _

/-! ### Start-ups (R71, R173) -/

theorem beginStartup_transportsLawful (s : State) (store : Store) (erasing : Bool) :
    (s.beginStartup store erasing).transportsLawful := fresh_transportsLawful rfl

@[simp] theorem restore_transports (s : State) : s.restore.transports = s.transports := by
  unfold State.restore
  split <;> simp

@[simp] theorem takeStartup_transports (s : State) (acts : Option Nat) :
    (s.takeStartup acts).transports = s.transports := by
  cases acts <;> exact restore_transports s

theorem replySent_transportsLawful (hs : s.transportsLawful) : s.replySent.transportsLawful := by
  unfold State.replySent
  split
  · split
    · exact transportsLawful_congr rfl hs
    · exact beginStartup_transportsLawful _ _ _
    · exact beginStartup_transportsLawful _ _ _
  · exact hs

/-! ### Requests -/

/-- The one request that reaches the monitor: an interval restart takes the boundary to its end (R130, R136). -/
theorem setOptionsWork_transportsLawful (hs : s.transportsLawful) (fields : OptionFields) :
    (setOptionsWork fields s).state.transportsLawful := by
  unfold setOptionsWork
  split
  · exact hs
  · split
    · exact hs
    · dsimp only [accept]
      unfold State.putOptions
      split
      · exact transportsLawful_congr rfl hs
      · exact transportsLawful_congr rfl (transportsLawful_boundary.finishBoundary hs)

/-! What the work of the other requests leaves as it is: the monitor's table. -/

theorem setClockWork_transports (v : Nat) (s : State) : (setClockWork v s).state.transports = s.transports := by
  unfold setClockWork
  split_ifs <;> rfl

theorem startWork_transports (s : State) : (startWork s).state.transports = s.transports := by
  unfold startWork
  split_ifs <;> rfl

theorem stopWork_transports (s : State) : (stopWork s).state.transports = s.transports := by
  unfold stopWork
  split_ifs
  · exact triggerCheckpoint_transports _
  · rfl

theorem wipeWork_transports (s : State) : (wipeWork s).state.transports = s.transports := by
  unfold wipeWork
  split_ifs <;> rfl

theorem assignElementWork_transports (n : Nat) (fields : SettingFields) (a : Nat) (s : State) :
    (assignElementWork n fields a s).state.transports = s.transports := by
  unfold assignElementWork
  (repeat' split) <;> rfl

theorem replaceElementWork_transports (n : Nat) (s : State) :
    (replaceElementWork n s).state.transports = s.transports := by
  unfold replaceElementWork
  (repeat' split) <;> rfl

theorem retireElementWork_transports (n : Nat) (s : State) :
    (retireElementWork n s).state.transports = s.transports := by
  unfold retireElementWork
  dsimp only
  (repeat' split) <;> rfl

theorem setThresholdsWork_transports (n a d l : Nat) (s : State) :
    (setThresholdsWork n a d l s).state.transports = s.transports := by
  unfold setThresholdsWork
  (repeat' split) <;> rfl

theorem setWeightsWork_transports (n : Nat) (fields : WeightFields) (s : State) :
    (setWeightsWork n fields s).state.transports = s.transports := by
  unfold setWeightsWork State.reweigh State.recost
  (repeat' split) <;> rfl

theorem waiveHoldWork_transports (n setting : Nat) (s : State) :
    (waiveHoldWork n setting s).state.transports = s.transports := by
  unfold waiveHoldWork
  (repeat' split) <;> rfl

theorem abortHoldWork_transports (k : Nat) (s : State) : (abortHoldWork k s).state.transports = s.transports := by
  unfold abortHoldWork
  (repeat' split) <;> rfl

theorem releaseHoldWork_transports (t : Nat) (s : State) :
    (releaseHoldWork t s).state.transports = s.transports := by
  unfold releaseHoldWork
  split <;> rfl

theorem setWatchWork_transports (n : Nat) (s : State) : (setWatchWork n s).state.transports = s.transports := by
  unfold setWatchWork
  split <;> rfl

theorem armCaptureWork_transports (level scope : Nat) (s : State) :
    (armCaptureWork level scope s).state.transports = s.transports := by
  unfold armCaptureWork
  split <;> rfl

theorem editMap_transports (s : State) (ok : Bool) (m : RouteMap) (reply : List Byte) :
    (s.editMap ok m reply).state.transports = s.transports := by
  unfold State.editMap
  split_ifs <;> rfl

theorem addWindowWork_transports (start length capacity : Nat) (s : State) :
    (addWindowWork start length capacity s).state.transports = s.transports := by
  unfold addWindowWork
  (repeat' split) <;> rfl

theorem removeWindowWork_transports (k : Nat) (s : State) :
    (removeWindowWork k s).state.transports = s.transports := by
  unfold removeWindowWork
  (repeat' split) <;> rfl

theorem pinWork_transports (i k : Nat) (s : State) : (pinWork i k s).state.transports = s.transports := by
  unfold pinWork
  (repeat' split) <;> rfl

theorem unpinWork_transports (i : Nat) (s : State) : (unpinWork i s).state.transports = s.transports := by
  unfold unpinWork
  (repeat' split) <;> rfl

theorem saveWork_transports (s : State) : (saveWork s).state.transports = s.transports := by
  unfold saveWork
  split <;> exact triggerCheckpoint_transports _

theorem fetchAlertsWork_transports (mask : BitVec 32) (s : State) :
    (fetchAlertsWork mask s).state.transports = s.transports := by
  unfold fetchAlertsWork
  split_ifs <;> rfl

theorem setNoticeMaskWork_transports (mask : BitVec 32) (s : State) :
    (setNoticeMaskWork mask s).state.transports = s.transports := by
  unfold setNoticeMaskWork
  split_ifs <;> rfl

/-! ### Rows -/

theorem request_transportsLawful {i : Instr} {work : State → Answer} (hs : s.transportsLawful)
    (hw : (work s).state.transports = s.transports) : Lands State.transportsLawful (s.request i work) :=
  request_lands transportsLawful_host hs (transportsLawful_congr hw hs)

theorem act_transportsLawful {f : State → State} (hs : s.transportsLawful) (hf : (f s).transports = s.transports) :
    Lands State.transportsLawful (s.act f) :=
  act_lands transportsLawful_host hs (transportsLawful_congr hf hs)

/-- Every row of a request keeps the transport law. -/
theorem request_row_transportsLawful (i : Instr) (s : State) (hi : requestCommand i ≠ none)
    (hs : s.transportsLawful) : Lands State.transportsLawful (exec i s) := by
  have host := transportsLawful_host
  cases i with
  | setClock v => exact request_transportsLawful hs (setClockWork_transports v s)
  | start => exact request_transportsLawful hs (startWork_transports s)
  | stop => exact request_transportsLawful hs (stopWork_transports s)
  | wipe => exact request_transportsLawful hs (wipeWork_transports s)
  | setOptions fields => exact request_lands host hs (setOptionsWork_transportsLawful hs fields)
  | assignElement n fields a => exact request_transportsLawful hs (assignElementWork_transports n fields a s)
  | replaceElement n => exact request_transportsLawful hs (replaceElementWork_transports n s)
  | retireElement n => exact request_transportsLawful hs (retireElementWork_transports n s)
  | setThresholds n a d l => exact request_transportsLawful hs (setThresholdsWork_transports n a d l s)
  | setWeights n fields => exact request_transportsLawful hs (setWeightsWork_transports n fields s)
  | waiveHold n setting => exact request_transportsLawful hs (waiveHoldWork_transports n setting s)
  | abortHold k => exact request_transportsLawful hs (abortHoldWork_transports k s)
  | releaseHold t => exact request_transportsLawful hs (releaseHoldWork_transports t s)
  | setWatch n => exact request_transportsLawful hs (setWatchWork_transports n s)
  | armCapture level scope => exact request_transportsLawful hs (armCaptureWork_transports level scope s)
  | setMask _ _ | setRoute _ _ _ _ _ | clearRoute _ | setCommonPath _ =>
    exact request_transportsLawful hs (editMap_transports s _ _ _)
  | addWindow start length capacity =>
    exact request_transportsLawful hs (addWindowWork_transports start length capacity s)
  | removeWindow k => exact request_transportsLawful hs (removeWindowWork_transports k s)
  | pin n k => exact request_transportsLawful hs (pinWork_transports n k s)
  | unpin n => exact request_transportsLawful hs (unpinWork_transports n s)
  | save => exact request_transportsLawful hs (saveWork_transports s)
  | readSaveStatus => exact execReadSaveStatus_lands host hs
  | fetchAlerts mask => exact request_transportsLawful hs (fetchAlertsWork_transports mask s)
  | setNoticeMask mask => exact request_transportsLawful hs (setNoticeMaskWork_transports mask s)
  | readElement _ | listElements _ _ _ | readRoute _ | readRouteCounts _ | readTransport _
  | readIntervalCounts _ _ | readPlan _ | readWindows _ => exact request_transportsLawful hs (by split <;> rfl)
  | status | restart | readOptions | clearCounts | readWatch | readCapture | readHolds | replan =>
    exact request_transportsLawful hs rfl
  | _ => exact absurd rfl hi

/-- Every row keeps the transport law. -/
theorem row_transportsLawful (i : Instr) (s : State) (hs : s.transportsLawful) :
    Lands State.transportsLawful (exec i s) := by
  have host := transportsLawful_host
  cases i with
  | powerOn => exact lands_next.2 (host.chosen _ (beginStartup_transportsLawful _ _ _))
  | resetPin erased =>
    exact act_lands (f := fun s => s.beginStartup (s.storeAtReset erased) false) host hs
      (beginStartup_transportsLawful _ _ _)
  | powerLoss tear erased torn =>
    refine lands_next.2 ?_
    split
    · exact fresh_transportsLawful rfl
    · exact hs
  | startupEnd => exact act_transportsLawful hs (by split <;> simp)
  | lineRecordArrival bytes =>
    exact act_transportsLawful (f := (·.lineBytes bytes)) hs (foldl_keeps State.transports lineByte_transports bytes s)
  | lineRecordAbandoned => exact act_transportsLawful hs (lineGap_transports s)
  | takeRecord => exact act_lands host hs (takeRecord_transportsLawful hs)
  | minuteTick =>
    refine act_lands host hs ?_
    split
    · exact takeTick_transportsLawful (s := s.cutTaken) (transportsLawful_congr rfl hs) _
    · exact hs
  | deferralEnd => exact act_transportsLawful hs (deliverHoldTick_transports s)
  | windowExpiry => exact act_transportsLawful hs (deliverPlanTick_transports s)
  | intervalBoundary => exact act_lands host hs (takeBoundary_transportsLawful hs)
  | checkpointRecordWritten result =>
    exact act_transportsLawful (f := (·.recordWritten result)) hs (recordWritten_transports s result)
  | hostReplySent =>
    exact execHostReplySent_lands host (fun _ => transportsLawful_congr rfl)
      (fun _ => replySent_transportsLawful) request_row_transportsLawful hs
  | busyReplySent => exact act_transportsLawful hs (busySent_transports s)
  | noticeSent => exact act_transportsLawful hs (noticeSent_transports s)
  | lineByteReceived b => exact act_transportsLawful (f := (·.lineByte b)) hs (lineByte_transports s b)
  | lineTxSent => exact act_transportsLawful (f := fun s => { s with hold := s.hold.headSent _ }) hs rfl
  | holdTimerExpiry slot => exact act_transportsLawful (f := (·.expireSlot slot)) hs rfl
  | hostFrameComplete bytes => exact act_transportsLawful (f := (·.hostReceive bytes)) hs rfl
  | hostFrameAbandoned =>
    exact act_transportsLawful (f := fun s => { s with host := { s.host with rx := .hunting } }) hs rfl
  | hostByteReceived b => exact act_transportsLawful (f := (·.hostReceive [b])) hs rfl
  | _ => exact request_row_transportsLawful _ s (by simp [requestCommand]) hs

/-- Settles O54: every row keeps the transport law, and taking a command off the queue keeps the transports. -/
theorem transportLawKept : Obligations.TransportLawKept := by
  intro s t hs h
  exact step_keeps (fun _ _ hs => transportsLawful_congr rfl hs) row_transportsLawful hs t h

end Sys2Proof.Machine
end

section
/-! The classification of a sample, what one sample does on its transport's record, and the conditions it reports
(R72 to R80, R83). -/

namespace Sys2Proof.Machine

/-! ### Classification (R74, R75) -/

section Classification

variable {minimum drive belt : Nat}

theorem classify_not_valid : classify minimum drive belt false = .invalid := rfl

theorem classify_belt_ahead (hd : 0 < drive) (h : 6 * drive < 5 * belt) :
    classify minimum drive belt true = .invalid := by
  simp [classify, hd, h]

/-- A valid sample whose belt is not ahead is IDLE below the minimum drive speed, else EVALUATED. -/
theorem classify_not_ahead (h : drive = 0 ∨ 5 * belt ≤ 6 * drive) :
    classify minimum drive belt true =
      if drive < minimum then .idle else .evaluated (slipPerMille drive belt) := by
  have hb : (decide (0 < drive) && decide (6 * drive < 5 * belt)) = false := by
    rw [← Bool.decide_and, decide_eq_false_iff_not]
    omega
  simp [classify, hb]

theorem classify_idle (h : drive = 0 ∨ 5 * belt ≤ 6 * drive) (hm : drive < minimum) :
    classify minimum drive belt true = .idle := by
  rw [classify_not_ahead h, if_pos hm]

theorem classify_evaluated (h : 5 * belt ≤ 6 * drive) (hm : minimum ≤ drive) :
    classify minimum drive belt true = .evaluated (slipPerMille drive belt) := by
  rw [classify_not_ahead (.inr h), if_neg (Nat.not_lt.2 hm)]

theorem slipPerMille_behind (h : belt < drive) : slipPerMille drive belt = (drive - belt) * 1000 / drive := if_pos h

theorem slipPerMille_level (h : drive ≤ belt) : slipPerMille drive belt = 0 := if_neg (Nat.not_lt.2 h)

/-- The shortfall is at most the drive speed. -/
theorem shortfall_le (drive belt : Nat) : (drive - belt) * 1000 / drive ≤ 1000 :=
  Nat.div_le_of_le_mul (Nat.mul_le_mul_right 1000 (Nat.sub_le drive belt))

end Classification

/-! ### The detector (R79, R80) -/

section Detector

variable {o : Options} {r : Transport} {p : Nat}

/-- The record with an over-limit sample counted in its interval (R85). -/
def Transport.overCounted (r : Transport) : Transport :=
  { r with live := { r.live with overLimit := min (r.live.overLimit + 1) 65535 } }

theorem detect_over (hp : o.slipLimit < p) : r.detect o p = r.overLimit o := if_pos hp

theorem detect_under (hp : p ≤ o.slipLimit) : r.detect o p = r.underLimit o := if_neg (Nat.not_lt.2 hp)

theorem overLimit_enters (h : r.slip = .clear) (hc : o.slipSetCount ≤ r.overRun + 1) :
    r.overLimit o = { r.overCounted with slip := .slipping, overRun := 0, goodRun := 0 } := by
  simp only [Transport.overLimit, h, if_pos hc]
  rfl

theorem overLimit_counts (h : r.slip = .clear) (hc : r.overRun + 1 < o.slipSetCount) :
    r.overLimit o = { r.overCounted with slip := .clear, overRun := r.overRun + 1 } := by
  simp only [Transport.overLimit, h, if_neg (Nat.not_le.2 hc)]
  rfl

theorem overLimit_slipping (h : r.slip = .slipping) :
    r.overLimit o = { r.overCounted with slip := .slipping, goodRun := 0 } := by
  simp only [Transport.overLimit, h]
  rfl

theorem underLimit_clear (h : r.slip = .clear) : r.underLimit o = { r with slip := .clear, overRun := 0 } := by
  simp only [Transport.underLimit, h]

theorem underLimit_clears (h : r.slip = .slipping) (hc : o.slipClearCount ≤ r.goodRun + 1) :
    r.underLimit o = { r with slip := .clear, overRun := 0, goodRun := 0 } := by
  simp only [Transport.underLimit, h, if_pos hc]

theorem underLimit_counts (h : r.slip = .slipping) (hc : r.goodRun + 1 < o.slipClearCount) :
    r.underLimit o = { r with slip := .slipping, goodRun := r.goodRun + 1 } := by
  simp only [Transport.underLimit, h, if_neg (Nat.not_le.2 hc)]

/-- The detector changes its own state and runs; an over-limit sample is counted too. -/
theorem overLimit_frame (o : Options) (r : Transport) :
    r.overLimit o =
      { r.overCounted with
        slip := (r.overLimit o).slip
        overRun := (r.overLimit o).overRun
        goodRun := (r.overLimit o).goodRun } := by
  unfold Transport.overLimit
  (repeat' split) <;> rfl

theorem underLimit_frame (o : Options) (r : Transport) :
    r.underLimit o =
      { r with
        slip := (r.underLimit o).slip
        overRun := (r.underLimit o).overRun
        goodRun := (r.underLimit o).goodRun } := by
  unfold Transport.underLimit
  (repeat' split) <;> rfl

theorem detect_frame (o : Options) (p : Nat) (r : Transport) :
    r.detect o p =
      { r with
        slip := (r.detect o p).slip
        overRun := (r.detect o p).overRun
        goodRun := (r.detect o p).goodRun
        live := { r.live with overLimit := (r.detect o p).live.overLimit } } := by
  by_cases hp : o.slipLimit < p
  · rw [detect_over hp, overLimit_frame]
    rfl
  · rw [detect_under (Nat.not_lt.1 hp), underLimit_frame]

/-- Of equal records, what the detector writes of them: its state and its two runs. -/
theorem slipRuns_of_eq {q u : Transport} (h : q = u) :
    q.slip = u.slip ∧ q.overRun = u.overRun ∧ q.goodRun = u.goodRun := by
  subst h
  exact ⟨rfl, rfl, rfl⟩

/-- The detector does not read the last sample. -/
theorem detect_last (o : Options) (p : Nat) (r : Transport) (last : Option Sample) :
    { r.detect o p with last := last } = Transport.detect o p { r with last := last } := by
  obtain ⟨running, slip, overRun, goodRun⟩ := r
  cases slip with
  | clear =>
    simp only [Transport.detect, Transport.overLimit, Transport.underLimit]
    (repeat' split) <;> rfl
  | slipping =>
    simp only [Transport.detect, Transport.overLimit, Transport.underLimit]
    (repeat' split) <;> rfl

end Detector

/-! ### One sample (R72) -/

/-- The record with the sample's running flag, its place in the window and its counts (R72, R76), and with the sample
as its last; its sensor is not yet examined. -/
def Transport.sampled (o : Options) (drive belt : Nat) (valid : Bool) (r : Transport) : Transport :=
  let sort := classify o.minimumDrive drive belt valid
  { Transport.joined sort.isValid r with running := decide (0 < drive), last := some ⟨drive, belt, sort⟩ }

section Sample

variable {o : Options} {drive belt : Nat} {valid : Bool} {r : Transport}

theorem sampled_validRun :
    (r.sampled o drive belt valid).validRun =
      if (classify o.minimumDrive drive belt valid).isValid then min (r.validRun + 1) 65535 else 0 := rfl

theorem sampled_live :
    (r.sampled o drive belt valid).live =
      { r.live with
        invalid := if (classify o.minimumDrive drive belt valid).isValid then r.live.invalid
          else min (r.live.invalid + 1) 65535 } := by
  rw [Transport.sampled, Transport.joined]
  split <;> rfl

/-- A valid run that ends a failure of the sensor (R78). -/
theorem le_sampled_validRun (hv : (classify o.minimumDrive drive belt valid).isValid = true)
    (hr : 32 ≤ r.validRun + 1) :
    32 ≤ (r.sampled o drive belt valid).validRun := by
  rw [sampled_validRun, if_pos hv]
  omega

theorem sampled_validRun_lt
    (h : (classify o.minimumDrive drive belt valid).isValid = false ∨ r.validRun + 1 < 32) :
    (r.sampled o drive belt valid).validRun < 32 := by
  rw [sampled_validRun]
  split
  · rename_i hv
    rw [hv] at h
    have := h.resolve_left Bool.noConfusion
    omega
  · omega

/-- A sample that the detector is not given leaves its record as the examination does. -/
theorem sample_undetected
    (h : r.sensor = .failed ∨ (r.examinedSample o drive belt valid).sensor = .failed ∨
      ∀ p, classify o.minimumDrive drive belt valid ≠ .evaluated p) :
    r.sample o drive belt valid =
      { r.examinedSample o drive belt valid with
        last := some ⟨drive, belt, classify o.minimumDrive drive belt valid⟩ } := by
  have hd : r.detectedSample o drive belt valid = r.examinedSample o drive belt valid := by
    unfold Transport.detectedSample
    dsimp only
    split
    · rename_i hr he hp
      rcases h with h | h | h
      · cases hr.symm.trans h
      · cases he.symm.trans h
      · exact absurd hp (h _)
    · rfl
  rw [Transport.sample, hd]

theorem sample_fails (hs : r.sensor = .good) (hc : 6 ≤ (r.sampled o drive belt valid).window.count false) :
    r.sample o drive belt valid =
      { r.sampled o drive belt valid with sensor := .failed, slip := .clear, overRun := 0, goodRun := 0 } := by
  have he : r.examinedSample o drive belt valid = _ := examined_fails hs hc
  rw [sample_undetected (.inr (.inl (by rw [he]))), he]
  rfl

theorem sample_recovers (hs : r.sensor = .failed) (hv : 32 ≤ (r.sampled o drive belt valid).validRun) :
    r.sample o drive belt valid =
      { r.sampled o drive belt valid with sensor := .good, window := [], validRun := 0 } := by
  have he : r.examinedSample o drive belt valid = _ := examined_recovers hs hv
  rw [sample_undetected (.inl hs), he]
  rfl

theorem sample_stays_failed (hs : r.sensor = .failed) (hv : (r.sampled o drive belt valid).validRun < 32) :
    r.sample o drive belt valid = r.sampled o drive belt valid := by
  have he : r.examinedSample o drive belt valid = _ := examined_stays_failed hs hv
  rw [sample_undetected (.inl hs), he]
  rfl

theorem sample_unevaluated (hs : r.sensor = .good) (hc : (r.sampled o drive belt valid).window.count false < 6)
    (h : ∀ p, classify o.minimumDrive drive belt valid ≠ .evaluated p) :
    r.sample o drive belt valid = r.sampled o drive belt valid := by
  have he : r.examinedSample o drive belt valid = _ := examined_stays_good hs hc
  rw [sample_undetected (.inr (.inr h)), he]
  rfl

theorem sample_detected {p : Nat} (hs : r.sensor = .good)
    (hc : (r.sampled o drive belt valid).window.count false < 6)
    (h : classify o.minimumDrive drive belt valid = .evaluated p) :
    r.sample o drive belt valid = (r.sampled o drive belt valid).detect o p := by
  have he : r.examinedSample o drive belt valid = _ := examined_stays_good hs hc
  have hg : (r.examinedSample o drive belt valid).sensor = .good := by rw [he]; exact hs
  rw [Transport.sample, Transport.detectedSample]
  simp only [hs, hg, h]
  rw [detect_last, he]
  simp only [Transport.sampled, h]
  rfl

/-- What a sample can do: the sensor fails, or recovers, or the detector is not given the sample, or it is. -/
theorem sample_cases (o : Options) (drive belt : Nat) (valid : Bool) (r : Transport) :
    let e := r.sampled o drive belt valid
    let q := r.sample o drive belt valid
    (r.sensor = .good ∧ 6 ≤ e.window.count false ∧
        q = { e with sensor := .failed, slip := .clear, overRun := 0, goodRun := 0 }) ∨
      (r.sensor = .failed ∧ q = { e with sensor := .good, window := [], validRun := 0 }) ∨
      q = e ∨
      ∃ p, r.sensor = .good ∧ e.window.count false < 6 ∧
        classify o.minimumDrive drive belt valid = .evaluated p ∧ q = e.detect o p := by
  intro e q
  cases hs : r.sensor with
  | good =>
    rcases Nat.lt_or_ge (e.window.count false) 6 with hc | hc
    · cases h : classify o.minimumDrive drive belt valid with
      | evaluated p => exact .inr (.inr (.inr ⟨p, rfl, hc, rfl, sample_detected hs hc h⟩))
      | invalid => exact .inr (.inr (.inl (sample_unevaluated hs hc (by simp [h]))))
      | idle => exact .inr (.inr (.inl (sample_unevaluated hs hc (by simp [h]))))
    · exact .inl ⟨rfl, hc, sample_fails hs hc⟩
  | failed =>
    rcases Nat.lt_or_ge e.validRun 32 with hv | hv
    · exact .inr (.inr (.inl (sample_stays_failed hs hv)))
    · exact .inr (.inl ⟨rfl, sample_recovers hs hv⟩)

/-- What every sample leaves: the running flag and the last sample are its own, and of the interval counters only those
of over-limit and invalid samples may rise. -/
theorem sample_frame (o : Options) (drive belt : Nat) (valid : Bool) (r : Transport) :
    (r.sample o drive belt valid).running = decide (0 < drive) ∧
      (r.sample o drive belt valid).last = some ⟨drive, belt, classify o.minimumDrive drive belt valid⟩ ∧
      (r.sample o drive belt valid).snapshot = r.snapshot ∧
      (r.sample o drive belt valid).live =
        { (r.sampled o drive belt valid).live with
          overLimit := (r.sample o drive belt valid).live.overLimit } := by
  obtain ⟨-, -, h⟩ | ⟨-, h⟩ | h | ⟨p, -, -, -, h⟩ := sample_cases o drive belt valid r
  · rw [h]; exact ⟨rfl, rfl, rfl, rfl⟩
  · rw [h]; exact ⟨rfl, rfl, rfl, rfl⟩
  · rw [h]; exact ⟨rfl, rfl, rfl, rfl⟩
  · rw [h, detect_frame]; exact ⟨rfl, rfl, rfl, rfl⟩

/-- A sensor that stays GOOD keeps what the sample put in its window (R76, R77). -/
theorem sample_examined (hs : r.sensor = .good) (hc : (r.sampled o drive belt valid).window.count false < 6) :
    (r.sample o drive belt valid).sensor = .good ∧
      (r.sample o drive belt valid).window = (r.sampled o drive belt valid).window ∧
      (r.sample o drive belt valid).validRun = (r.sampled o drive belt valid).validRun := by
  obtain ⟨-, hn, -⟩ | ⟨hf, -⟩ | h | ⟨p, -, -, -, h⟩ := sample_cases o drive belt valid r
  · exact absurd hc (Nat.not_lt.2 hn)
  · rw [hs] at hf
    cases hf
  · rw [h]; exact ⟨hs, rfl, rfl⟩
  · rw [h, detect_frame]; exact ⟨hs, rfl, rfl⟩

/-- A sample that the detector does not find over the limit leaves the count of over-limit samples (R79, R85). -/
theorem sample_overLimit_of_not_over
    (h : ¬(r.sensor = .good ∧ (r.sampled o drive belt valid).window.count false < 6) ∨
      ∀ p, classify o.minimumDrive drive belt valid = .evaluated p → p ≤ o.slipLimit) :
    (r.sample o drive belt valid).live.overLimit = r.live.overLimit := by
  have sampled : (r.sampled o drive belt valid).live.overLimit = r.live.overLimit := by rw [sampled_live]
  obtain ⟨-, -, hq⟩ | ⟨-, hq⟩ | hq | ⟨p, hs, hc, hp, hq⟩ := sample_cases o drive belt valid r
  · rw [hq]; exact sampled
  · rw [hq]; exact sampled
  · rw [hq]; exact sampled
  · have under : p ≤ o.slipLimit := h.elim (fun hn => absurd ⟨hs, hc⟩ hn) (fun hu => hu p hp)
    rw [hq, detect_under under, underLimit_frame]
    exact sampled

end Sample

/-! ### The conditions (R83) -/

theorem conditionReport_eq (kind : AlertKind) (t : Nat) (was is anyBefore anyAfter : Bool) :
    conditionReport kind t was is anyBefore anyAfter =
      if was = false ∧ is = true then [.conditionSet kind t (!anyBefore)]
      else if was = true ∧ is = false ∧ anyAfter = false then [.conditionEnded kind]
      else [] := by
  simp [conditionReport, and_assoc]

/-! ### The obligation's parts -/

/-- R74, R75. -/
theorem classify_spec (minimum drive belt : Nat) (valid : Bool) :
    (valid = false → classify minimum drive belt valid = .invalid) ∧
    (valid = true →
      (0 < drive → 6 * drive < 5 * belt → classify minimum drive belt valid = .invalid) ∧
      (drive = 0 ∨ 5 * belt ≤ 6 * drive → drive < minimum → classify minimum drive belt valid = .idle) ∧
      (5 * belt ≤ 6 * drive → minimum ≤ drive → belt < drive →
        classify minimum drive belt valid = .evaluated ((drive - belt) * 1000 / drive) ∧
          (drive - belt) * 1000 / drive ≤ 1000) ∧
      (0 < drive → 5 * belt ≤ 6 * drive → minimum ≤ drive → drive ≤ belt →
        classify minimum drive belt valid = .evaluated 0)) := by
  refine ⟨?_, ?_⟩
  · rintro rfl
    exact classify_not_valid
  · rintro rfl
    refine ⟨classify_belt_ahead, classify_idle, fun h hm hb => ⟨?_, shortfall_le drive belt⟩,
      fun _ h hm hb => ?_⟩
    · rw [classify_evaluated h hm, slipPerMille_behind hb]
    · rw [classify_evaluated h hm, slipPerMille_level hb]

/-- Settles O46: the case of the sample (`sample_cases`) and, where the detector is given it, the detector's. -/
theorem speedSamples : Obligations.SpeedSamples := by
  refine ⟨classify_spec, fun o drive belt valid r => ?record, fun s t drive belt valid => ?reports⟩
  case reports =>
    simp only [State.takeSample, conditionReport_eq]
    rfl
  case record =>
    intro q sort joined run sameRuns examined
    obtain ⟨hrun, hlast, hsnap, hlive⟩ := sample_frame o drive belt valid r
    rw [sampled_live] at hlive
    refine ⟨hrun, hlast, ?invalid, fun hs hc => ?fails, fun ⟨hs, hc⟩ => sample_examined hs hc,
      fun hs hv hr => ?recovers, fun hs hv => ?failed, fun p ⟨hs, hc⟩ hp => ?detected, fun h ⟨hs, hc⟩ => ?undetected,
      sample_overLimit_of_not_over, ?live, hsnap⟩
    case invalid => exact congrArg IntervalCounters.invalid hlive
    case live =>
      show ({ (r.sample o drive belt valid).live with overLimit := _, invalid := _ } : IntervalCounters) = _
      rw [hlive]
    case fails =>
      have hq : q = _ := sample_fails hs hc
      rw [hq]
      exact ⟨rfl, rfl, rfl, rfl, rfl, rfl⟩
    case recovers =>
      have hq : q = _ := sample_recovers hs (le_sampled_validRun hv hr)
      exact ⟨congrArg Transport.sensor hq, congrArg Transport.window hq, congrArg Transport.validRun hq,
        (slipRuns_of_eq hq :)⟩
    case failed =>
      have hq : q = _ := sample_stays_failed hs (sampled_validRun_lt hv)
      exact ⟨(congrArg Transport.sensor hq).trans hs, congrArg Transport.window hq, congrArg Transport.validRun hq,
        (slipRuns_of_eq hq :)⟩
    case undetected =>
      have hq : q = _ := sample_unevaluated hs hc fun p hp => by
        rcases h with h | h <;> cases hp.symm.trans h
      exact (slipRuns_of_eq hq :)
    case detected =>
      have hq : q = _ := sample_detected hs hc hp
      refine ⟨fun hover => ?counted, fun hover clear => ⟨fun hn => ?enters, fun hn => ?counts⟩,
        fun hover slipping => ?slipping, fun hunder clear => ?clear,
        fun hunder slipping => ⟨fun hn => ?clears, fun hn => ?good⟩⟩
      case counted =>
        rw [hq, detect_over hover, overLimit_frame]
        show min ((r.sampled o drive belt valid).live.overLimit + 1) 65535 = _
        rw [sampled_live]
      case enters => exact slipRuns_of_eq (hq.trans ((detect_over hover).trans (overLimit_enters clear hn)))
      case counts => exact slipRuns_of_eq (hq.trans ((detect_over hover).trans (overLimit_counts clear hn)))
      case slipping => exact slipRuns_of_eq (hq.trans ((detect_over hover).trans (overLimit_slipping slipping)))
      case clear => exact slipRuns_of_eq (hq.trans ((detect_under hunder).trans (underLimit_clear clear)))
      case clears => exact slipRuns_of_eq (hq.trans ((detect_under hunder).trans (underLimit_clears slipping hn)))
      case good => exact slipRuns_of_eq (hq.trans ((detect_under hunder).trans (underLimit_counts slipping hn)))

end Sys2Proof.Machine
end

section
/-! The hold unit's laws and the transmitter's (R107, R110, R112): every row keeps them together with the element law, by
which the settings of an element name a transport that exists (R2). -/

namespace Sys2Proof.Machine

/-- The element law with the laws over the waiting list, the hold states, the slots and the transmit list. -/
def State.holdsLawful (s : State) : Prop := s.elementsLawful ∧ s.hold.sound

variable {s : State}

/-! ### Re-evaluations (R10, R11, R113) -/

theorem holdsLawful_congr {u : State} (he : u.elements = s.elements) (hh : u.hold = s.hold) (hs : s.holdsLawful) :
    u.holdsLawful :=
  ⟨elementsLawful_congr he hs.1, hh ▸ hs.2⟩

theorem transport_lt_of_lawful {f : Fitting} (h : f.lawful) : f.settings.transport < 32 := by
  obtain ⟨ht, -⟩ := settings_ok_iff.1 h.1
  omega

/-- An evaluation with a lawful record re-evaluates at most its own transport, which exists. -/
theorem handOff_sound (hs : s.hold.sound) (o : Offer) {ev : Evaluation} (h : ev.fitting.lawful) :
    (s.handOff o ev).hold.sound := by
  dsimp only [State.handOff]
  split
  · exact reevaluate_sound hs (transport_lt_of_lawful h) _ _
  · exact hs

/-! ### The host link's share and the boundary's -/

theorem holdsLawful_host : KeptByHost State.holdsLawful where
  chosen s := holdsLawful_congr (arbitrate_elements s) (arbitrate_hold s)
  inHand _ _ := holdsLawful_congr rfl rfl
  frame _ _ := holdsLawful_congr rfl rfl

theorem applyCharge_sound {i : Nat} {f : Fitting} (hs : s.hold.sound) (hf : f.lawful) (c : Charge) :
    (s.applyCharge i f c).hold.sound := by
  rw [applyCharge_eq]
  refine handOff_sound hs _ (evaluate_lawful ?_ _ _ _)
  rw [charge_settings]
  exact hf.1

theorem holdsLawful_boundary : KeptByBoundary State.holdsLawful where
  charges s i f c hf hs := ⟨elementsLawful_charges s i f c hf hs.1, applyCharge_sound hs.2 (hs.1 i f hf) c⟩
  work _ _ := holdsLawful_congr rfl rfl
  done _ := holdsLawful_congr rfl rfl
  counted _ _ := holdsLawful_congr rfl rfl
  timer _ _ := holdsLawful_congr rfl rfl
  rolled _ _ _ _ _ hs := ⟨elementsLawful_of_rollTable rfl hs.1, hs.2⟩
  closed _ := holdsLawful_congr rfl rfl
  replanned _ := holdsLawful_congr rfl rfl
  triggered s := holdsLawful_congr (triggerCheckpoint_elements s) (triggerCheckpoint_hold s)

/-! ### The line link (R98, R105, R117) -/

theorem takeAnswer_sound (hs : s.hold.sound) (tag t : Nat) (granted : Bool) :
    (s.takeAnswer tag t granted).hold.sound := by
  unfold State.takeAnswer
  split
  · rename_i answered ha
    exact answer_sound hs ha
  · exact hs

theorem passOn_sound (hs : s.hold.sound) (r : Inbound) : (s.passOn r).hold.sound := by
  unfold State.passOn
  split
  · rw [discardStarting_hold]
    exact hs
  · cases r with
    | queued record => rw [offer_hold]; exact hs
    | answer tag t granted => exact takeAnswer_sound hs tag t granted

theorem lineByte_sound (hs : s.hold.sound) (b : Byte) : (s.lineByte b).hold.sound := by
  unfold State.lineByte
  dsimp only
  split
  · unfold State.recordArrives
    split
    · exact passOn_sound (s := s.setLineRx (s.line.rx.step b).1) hs _
    · exact hs
  · exact hs

theorem lineBytes_holdsLawful (hs : s.holdsLawful) (bytes : List Byte) : (s.lineBytes bytes).holdsLawful :=
  ⟨elementsLawful_congr (lineBytes_elements s bytes) hs.1,
    foldl_keeps_prop (Q := fun u : State => u.hold.sound) (fun _ b hu => lineByte_sound hu b) bytes hs.2⟩

/-! ### Records taken (R27) -/

theorem beginRecord_holdsLawful (hs : s.holdsLawful) (acts : Option Nat) (r : LineRecord) :
    (s.beginRecord acts r).holdsLawful := by
  have worked := holdsLawful_boundary.toKeptByWork
  cases r with
  | item it =>
    rw [State.beginRecord]
    split
    · exact itemWork_keeps worked _ _ _ _ _ (holdsLawful_congr rfl rfl hs)
    · exact holdsLawful_congr rfl rfl hs
  | mode m => exact holdsLawful_congr (takeMode_elements s m) (takeMode_hold s m) hs
  | tach t drive belt valid => exact holdsLawful_congr rfl rfl hs
  | jam t severity =>
    have counted : (s.onTransport t Transport.countJam).holdsLawful := holdsLawful_congr rfl rfl hs
    rw [State.beginRecord]
    split
    · exact jamWork_keeps worked _ _ _ _ _ _ counted
    · exact counted

theorem takeRecord_holdsLawful (hs : s.holdsLawful) : s.takeRecord.holdsLawful := by
  unfold State.takeRecord
  split
  · exact hs
  · exact goOn_keeps holdsLawful_boundary.toKeptByWork _ _ (holdsLawful_congr rfl rfl hs)
  · refine beginRecord_holdsLawful ?_ _ _
    exact holdsLawful_congr rfl rfl hs
  · exact hs

/-! ### Time (R40, R120, R128) -/

theorem deliverHoldTick_holdsLawful (hs : s.holdsLawful) : s.deliverHoldTick.holdsLawful := by
  refine ⟨elementsLawful_congr (deliverHoldTick_elements s) hs.1, ?_⟩
  unfold State.deliverHoldTick
  split
  · exact tick_sound hs.2 _ _
  · exact hs.2

theorem tickHolds_holdsLawful (hs : s.holdsLawful) : s.tickHolds.holdsLawful := by
  refine ⟨elementsLawful_congr (tickHolds_elements s) hs.1, ?_⟩
  unfold State.tickHolds
  split
  · exact hs.2
  · exact countDown_sound hs.2

theorem minuteTick_holdsLawful (hs : s.holdsLawful) (examined : Option Nat) :
    (s.minuteTick examined).holdsLawful := by
  have planned : s.deliverPlanTick.holdsLawful :=
    holdsLawful_congr (deliverPlanTick_elements s) (deliverPlanTick_hold s) hs
  have finished : s.finishTick.holdsLawful :=
    holdsLawful_boundary.finishBoundary (deliverHoldTick_holdsLawful planned)
  have counted : s.finishTick.countTick.holdsLawful := holdsLawful_congr rfl rfl finished
  have charged := holdsLawful_boundary.runOn counted examined
  have ticked := tickHolds_holdsLawful
    (s := (s.finishTick.countTick.runOn examined).onTransports Transport.countMinute)
    (holdsLawful_congr rfl rfl charged)
  exact holdsLawful_congr (tickPlan_elements _ _) (tickPlan_hold _ _) ticked

theorem takeTick_holdsLawful (hs : s.holdsLawful) (examined : Option Nat) : (s.takeTick examined).holdsLawful := by
  unfold State.takeTick
  split
  · exact holdsLawful_boundary.runOn hs examined
  · exact minuteTick_holdsLawful hs examined

theorem takeBoundary_holdsLawful (hs : s.holdsLawful) : s.takeBoundary.holdsLawful := by
  have kept := holdsLawful_boundary
  have begun : s.cutTaken.holdsLawful := holdsLawful_congr rfl rfl hs
  unfold State.takeBoundary
  split
  · exact hs
  · split
    · exact kept.deliverRoll (kept.deliverSnapshot begun) _
    · exact kept.deliverSnapshot begun
    · exact kept.deliverRoll begun _

/-! ### Start-ups (R112, R127, R173, R175) -/

theorem beginStartup_holdsLawful (s : State) (store : Store) (erasing : Bool) :
    (s.beginStartup store erasing).holdsLawful :=
  ⟨beginStartup_elementsLawful s store erasing, fresh_sound⟩

theorem restore_hold (s : State) : s.restore.hold = s.hold := by
  unfold State.restore
  split <;> simp

/-- The restore leaves the hold unit, and the end of a start-up makes the post-restore pass. -/
theorem takeStartup_holdsLawful (hs : s.holdsLawful) (acts : Option Nat) : (s.takeStartup acts).holdsLawful := by
  refine ⟨takeStartup_elementsLawful hs.1 acts, ?_⟩
  cases acts with
  | none => exact arbiter_sound (postRestore_sound _) true
  | some n => exact (restore_hold s).symm ▸ hs.2

theorem replySent_holdsLawful (hs : s.holdsLawful) : s.replySent.holdsLawful := by
  unfold State.replySent
  split
  · split
    · exact holdsLawful_congr rfl rfl hs
    · exact beginStartup_holdsLawful _ _ _
    · exact beginStartup_holdsLawful _ _ _
  · exact hs

/-! ### Requests that reach the hold unit -/

/-- The one request on the part that does: an interval restart takes the boundary, with its run charges, to its end
(R130, R136). -/
theorem setOptionsWork_sound (hs : s.holdsLawful) (fields : OptionFields) :
    (setOptionsWork fields s).state.hold.sound := by
  unfold setOptionsWork
  split
  · exact hs.2
  · split
    · exact hs.2
    · dsimp only [accept]
      unfold State.putOptions
      split
      · exact hs.2
      · exact (holdsLawful_boundary.finishBoundary hs).2

theorem assignElementWork_sound (hs : s.hold.sound) (i : Nat) (fields : SettingFields) (a : Nat) :
    (assignElementWork i fields a s).state.hold.sound := by
  unfold assignElementWork
  split
  · exact hs
  · split
    · exact hs
    · split
      · exact hs
      · rename_i v hv
        exact handOff_sound (s := s.fit i (v.fitted a)) hs _
          (settle_lawful (fitted_lawful (settingsOf?_ok hv) a) _ _ _ _)

theorem replaceElementWork_sound (hs : s.holdsLawful) (i : Nat) : (replaceElementWork i s).state.hold.sound := by
  unfold replaceElementWork
  split
  · exact hs.2
  · split
    · exact hs.2
    · rename_i f hf
      exact reevaluate_sound hs.2 (transport_lt_of_lawful (hs.1 i f hf)) _ _

theorem retireElementWork_sound (hs : s.holdsLawful) (i : Nat) : (retireElementWork i s).state.hold.sound := by
  unfold retireElementWork
  dsimp only
  split
  · exact hs.2
  · split
    · exact hs.2
    · exact hs.2
    · rename_i f hf
      exact reevaluate_sound hs.2 (transport_lt_of_lawful (hs.1 i f (fitting?_eq_some.2 hf))) _ _

theorem setThresholdsWork_sound (hs : s.holdsLawful) (i advisory due limit : Nat) :
    (setThresholdsWork i advisory due limit s).state.hold.sound := by
  unfold setThresholdsWork
  split
  · exact hs.2
  · split
    · exact hs.2
    · rename_i f hf
      split
      · exact hs.2
      · split
        · rename_i hok
          exact handOff_sound hs.2 _ (settle_lawful (rethresholded_lawful (hs.1 i f hf).1 hok) _ _ _ _)
        · exact hs.2

theorem recost_hold (s : State) (i old new : Nat) : (s.recost i old new).hold = s.hold := by
  unfold State.recost
  split <;> rfl

theorem setWeightsWork_sound (hs : s.holdsLawful) (i : Nat) (fields : WeightFields) :
    (setWeightsWork i fields s).state.hold.sound := by
  unfold setWeightsWork
  split
  · exact hs.2
  · split
    · exact hs.2
    · rename_i f hf
      split
      · exact hs.2
      · refine reevaluate_sound ?_ (transport_lt_of_lawful (hs.1 i f hf)) _ _
        rw [recost_hold]
        exact hs.2

theorem waiveHoldWork_sound (hs : s.holdsLawful) (i setting : Nat) :
    (waiveHoldWork i setting s).state.hold.sound := by
  unfold waiveHoldWork
  split
  · exact hs.2
  · split
    · exact hs.2
    · rename_i f hf
      split
      · split
        · exact reevaluate_sound hs.2 (transport_lt_of_lawful (hs.1 i f hf)) _ _
        · exact hs.2
      · exact hs.2

/-- A slot whose request is aborted names a transport that exists. -/
theorem abort_sound (hs : s.hold.sound) {k t : Nat} (hk : k < 4)
    (ha : (s.hold.slot k).state = .pending ∨ (s.hold.slot k).state = .sent)
    (ht : (s.hold.slot k).transport = some t) : (s.abort k t).hold.sound := by
  have busy : (s.hold.slot k).state ≠ .free := by rcases ha with ha | ha <;> simp [ha]
  exact reevaluate_sound (giveUp_sound hs hk ha ht _ _) (((sound_iff _).1 hs).1.small k hk t busy ht) _ _

theorem abortHoldWork_sound (hs : s.hold.sound) (k : Nat) : (abortHoldWork k s).state.hold.sound := by
  unfold abortHoldWork
  split
  · exact hs
  · rename_i hk
    split
    · rename_i t ha ht
      exact abort_sound hs (by omega) (.inl ha) ht
    · rename_i t ha ht
      exact abort_sound hs (by omega) (.inr ha) ht
    · exact hs

theorem releaseHoldWork_sound (hs : s.hold.sound) (t : Nat) : (releaseHoldWork t s).state.hold.sound := by
  unfold releaseHoldWork
  split
  · exact hs
  · rename_i ht
    exact reevaluate_sound hs (Nat.lt_of_not_le ht) _ _

/-! What the work of the other requests leaves as it is: the hold unit. -/

theorem setClockWork_hold (v : Nat) (s : State) : (setClockWork v s).state.hold = s.hold := by
  unfold setClockWork
  split_ifs <;> rfl

theorem startWork_hold (s : State) : (startWork s).state.hold = s.hold := by
  unfold startWork
  split_ifs <;> rfl

theorem stopWork_hold (s : State) : (stopWork s).state.hold = s.hold := by
  unfold stopWork
  split_ifs
  · exact triggerCheckpoint_hold _
  · rfl

theorem wipeWork_hold (s : State) : (wipeWork s).state.hold = s.hold := by
  unfold wipeWork
  split_ifs <;> rfl

theorem setWatchWork_hold (n : Nat) (s : State) : (setWatchWork n s).state.hold = s.hold := by
  unfold setWatchWork
  split <;> rfl

theorem armCaptureWork_hold (level scope : Nat) (s : State) :
    (armCaptureWork level scope s).state.hold = s.hold := by
  unfold armCaptureWork
  split <;> rfl

theorem editMap_hold (s : State) (ok : Bool) (m : RouteMap) (reply : List Byte) :
    (s.editMap ok m reply).state.hold = s.hold := by
  unfold State.editMap
  split_ifs <;> rfl

theorem addWindowWork_hold (start length capacity : Nat) (s : State) :
    (addWindowWork start length capacity s).state.hold = s.hold := by
  unfold addWindowWork
  (repeat' split) <;> rfl

theorem removeWindowWork_hold (k : Nat) (s : State) : (removeWindowWork k s).state.hold = s.hold := by
  unfold removeWindowWork
  (repeat' split) <;> rfl

theorem pinWork_hold (i k : Nat) (s : State) : (pinWork i k s).state.hold = s.hold := by
  unfold pinWork
  (repeat' split) <;> rfl

theorem unpinWork_hold (i : Nat) (s : State) : (unpinWork i s).state.hold = s.hold := by
  unfold unpinWork
  (repeat' split) <;> rfl

theorem saveWork_hold (s : State) : (saveWork s).state.hold = s.hold := by
  unfold saveWork
  split <;> exact triggerCheckpoint_hold _

theorem fetchAlertsWork_hold (mask : BitVec 32) (s : State) : (fetchAlertsWork mask s).state.hold = s.hold := by
  unfold fetchAlertsWork
  split_ifs <;> rfl

theorem setNoticeMaskWork_hold (mask : BitVec 32) (s : State) :
    (setNoticeMaskWork mask s).state.hold = s.hold := by
  unfold setNoticeMaskWork
  split_ifs <;> rfl

/-! ### Rows -/

/-- A row whose work keeps the elements and the hold unit. -/
theorem request_holdsLawful {i : Instr} {work : State → Answer} (hs : s.holdsLawful)
    (he : (work s).state.elements = s.elements) (hh : (work s).state.hold = s.hold) :
    Lands State.holdsLawful (s.request i work) :=
  request_lands holdsLawful_host hs (holdsLawful_congr he hh hs)

theorem act_holdsLawful {f : State → State} (hs : s.holdsLawful) (he : (f s).elements = s.elements)
    (hh : (f s).hold = s.hold) : Lands State.holdsLawful (s.act f) :=
  act_lands holdsLawful_host hs (holdsLawful_congr he hh hs)

/-- Every row of a request keeps the laws. -/
theorem request_row_holdsLawful (i : Instr) (s : State) (hi : requestCommand i ≠ none) (hs : s.holdsLawful) :
    Lands State.holdsLawful (exec i s) := by
  have works : ∀ {i : Instr} {work : State → Answer}, (work s).state.elementsLawful → (work s).state.hold.sound →
      Lands State.holdsLawful (s.request i work) := fun he hh => request_lands holdsLawful_host hs ⟨he, hh⟩
  cases i with
  | setClock v => exact request_holdsLawful hs (setClockWork_elements v s) (setClockWork_hold v s)
  | start => exact request_holdsLawful hs (startWork_elements s) (startWork_hold s)
  | stop => exact request_holdsLawful hs (stopWork_elements s) (stopWork_hold s)
  | wipe => exact request_holdsLawful hs (wipeWork_elements s) (wipeWork_hold s)
  | setOptions fields => exact works (setOptionsWork_elementsLawful hs.1 fields) (setOptionsWork_sound hs fields)
  | assignElement n fields a =>
    exact works (assignElementWork_elementsLawful hs.1 n fields a) (assignElementWork_sound hs.2 n fields a)
  | replaceElement n => exact works (replaceElementWork_elementsLawful hs.1 n) (replaceElementWork_sound hs n)
  | retireElement n => exact works (retireElementWork_elementsLawful hs.1 n) (retireElementWork_sound hs n)
  | setThresholds n a d l =>
    exact works (setThresholdsWork_elementsLawful hs.1 n a d l) (setThresholdsWork_sound hs n a d l)
  | setWeights n fields => exact works (setWeightsWork_elementsLawful hs.1 n fields) (setWeightsWork_sound hs n fields)
  | waiveHold n setting => exact works (waiveHoldWork_elementsLawful hs.1 n setting) (waiveHoldWork_sound hs n setting)
  | abortHold k => exact works (abortHoldWork_elementsLawful hs.1 k) (abortHoldWork_sound hs.2 k)
  | releaseHold t => exact works (releaseHoldWork_elementsLawful hs.1 t) (releaseHoldWork_sound hs.2 t)
  | setWatch n => exact request_holdsLawful hs (setWatchWork_elements n s) (setWatchWork_hold n s)
  | armCapture level scope =>
    exact request_holdsLawful hs (armCaptureWork_elements level scope s) (armCaptureWork_hold level scope s)
  | setMask _ _ | setRoute _ _ _ _ _ | clearRoute _ | setCommonPath _ =>
    exact request_holdsLawful hs (editMap_elements s _ _ _) (editMap_hold s _ _ _)
  | addWindow start length capacity =>
    exact request_holdsLawful hs (addWindowWork_elements start length capacity s)
      (addWindowWork_hold start length capacity s)
  | removeWindow k => exact request_holdsLawful hs (removeWindowWork_elements k s) (removeWindowWork_hold k s)
  | pin n k => exact request_holdsLawful hs (pinWork_elements n k s) (pinWork_hold n k s)
  | unpin n => exact request_holdsLawful hs (unpinWork_elements n s) (unpinWork_hold n s)
  | save => exact request_holdsLawful hs (saveWork_elements s) (saveWork_hold s)
  | readSaveStatus => exact execReadSaveStatus_lands holdsLawful_host hs
  | fetchAlerts mask => exact request_holdsLawful hs (fetchAlertsWork_elements mask s) (fetchAlertsWork_hold mask s)
  | setNoticeMask mask =>
    exact request_holdsLawful hs (setNoticeMaskWork_elements mask s) (setNoticeMaskWork_hold mask s)
  | readElement _ | listElements _ _ _ | readRoute _ | readRouteCounts _ | readTransport _
  | readIntervalCounts _ _ | readPlan _ | readWindows _ =>
    exact request_holdsLawful hs (by split <;> rfl) (by split <;> rfl)
  | status | restart | readOptions | clearCounts | readWatch | readCapture | readHolds | replan =>
    exact request_holdsLawful hs rfl rfl
  | _ => exact absurd rfl hi

/-- Every row keeps the laws. -/
theorem row_holdsLawful (i : Instr) (s : State) (hs : s.holdsLawful) : Lands State.holdsLawful (exec i s) := by
  have host := holdsLawful_host
  cases i with
  | powerOn => exact lands_next.2 (host.chosen _ (beginStartup_holdsLawful _ _ _))
  | resetPin erased =>
    exact act_lands (f := fun s => s.beginStartup (s.storeAtReset erased) false) host hs
      (beginStartup_holdsLawful _ _ _)
  | powerLoss tear erased torn =>
    refine lands_next.2 ?_
    split
    · exact holdsLawful_congr rfl rfl (beginStartup_holdsLawful s (s.storeAtLoss tear erased torn) false)
    · exact hs
  | startupEnd =>
    refine act_lands host hs ?_
    split
    · exact takeStartup_holdsLawful (s := s.cutTaken) (holdsLawful_congr rfl rfl hs) _
    · exact hs
  | lineRecordArrival bytes => exact act_lands (f := (·.lineBytes bytes)) host hs (lineBytes_holdsLawful hs bytes)
  | lineRecordAbandoned => exact act_holdsLawful hs (lineGap_elements s) (lineGap_hold s)
  | takeRecord => exact act_lands host hs (takeRecord_holdsLawful hs)
  | lineTxSent =>
    exact act_lands (f := fun s => { s with hold := s.hold.headSent s.options.answerTimeout }) host hs
      ⟨elementsLawful_congr rfl hs.1, headSent_sound hs.2 _⟩
  | holdTimerExpiry slot =>
    exact act_lands (f := (·.expireSlot slot)) host hs ⟨elementsLawful_congr rfl hs.1, expire_sound hs.2 _ _ _⟩
  | minuteTick =>
    refine act_lands host hs ?_
    split
    · exact takeTick_holdsLawful (s := s.cutTaken) (holdsLawful_congr rfl rfl hs) _
    · exact hs
  | deferralEnd => exact act_lands host hs (deliverHoldTick_holdsLawful hs)
  | windowExpiry => exact act_holdsLawful hs (deliverPlanTick_elements s) (deliverPlanTick_hold s)
  | intervalBoundary => exact act_lands host hs (takeBoundary_holdsLawful hs)
  | checkpointRecordWritten result =>
    exact act_holdsLawful (f := (·.recordWritten result)) hs (recordWritten_elements s result)
      (recordWritten_hold s result)
  | hostReplySent =>
    exact execHostReplySent_lands host (fun _ => holdsLawful_congr rfl rfl) (fun _ => replySent_holdsLawful)
      request_row_holdsLawful hs
  | busyReplySent => exact act_holdsLawful hs (busySent_elements s) (busySent_hold s)
  | noticeSent => exact act_holdsLawful hs (noticeSent_elements s) (noticeSent_hold s)
  | lineByteReceived b => exact act_lands (f := (·.lineByte b)) host hs (lineBytes_holdsLawful hs [b])
  | hostFrameComplete bytes => exact act_holdsLawful (f := (·.hostReceive bytes)) hs rfl rfl
  | hostFrameAbandoned =>
    exact act_holdsLawful (f := fun s => { s with host := { s.host with rx := .hunting } }) hs rfl rfl
  | hostByteReceived b => exact act_holdsLawful (f := (·.hostReceive [b])) hs rfl rfl
  | _ => exact request_row_holdsLawful _ s (by simp [requestCommand]) hs

/-- Settles O58: every row keeps the laws, and taking a command off the queue keeps the elements and the hold unit. -/
theorem holdLawsKept : Obligations.HoldLawsKept := by
  intro s t he hl ht h
  exact (step_keeps (fun _ _ hs => holdsLawful_congr rfl rfl hs) row_holdsLawful ⟨he, hl, ht⟩ t h).2

end Sys2Proof.Machine
end

section
/-! The line link's receiver: what one byte does in each receive state, what a whole record's bytes do, and what a gap
does (R91 to R94). -/

namespace Sys2Proof.Machine

/-! ### The receive states (R92) -/

theorem step_hunting_other {b : Byte} (h : b ≠ 0x5A) : LineRx.step .hunting b = (.hunting, none) := by
  rw [LineRx.step, if_neg h]

theorem step_length_zero (kind : Byte) : LineRx.step (.header (some kind)) 0 = (.check kind [] none, none) := rfl

theorem step_length {b : Byte} (kind : Byte) (h : b ≠ 0) :
    LineRx.step (.header (some kind)) b = (.payload kind b.toNat [], none) := by
  rw [LineRx.step, if_neg h]

theorem step_payload_more {n : Nat} {stored : List Byte} (kind b : Byte) (h : stored.length + 1 ≠ n) :
    LineRx.step (.payload kind n stored) b = (.payload kind n (stored ++ [b]), none) := by
  rw [LineRx.step, if_neg (by rwa [List.length_append])]

theorem step_payload_last {n : Nat} {stored : List Byte} (kind b : Byte) (h : stored.length + 1 = n) :
    LineRx.step (.payload kind n stored) b = (.check kind (stored ++ [b]) none, none) := by
  rw [LineRx.step, if_pos (by rwa [List.length_append])]

/-! ### Bytes and gaps (R92, R93) -/

variable {s : State}

/-- The event of a powered part that acts by `f`. -/
theorem becomes_of_act {i : Instr} {f : State → State} {u : State} (hp : s.powered = true) (hi : exec i s = s.act f)
    (hu : f s = u) : Becomes i s u :=
  hi.trans (hu ▸ act_powered f hp)

/-- A byte that completes a record makes it arrive. -/
theorem lineByte_completes {b : Byte} {rx : LineRx} {r : RawRecord} (h : s.line.rx.step b = (rx, some r)) :
    s.lineByte b = (s.setLineRx rx).recordArrives r := by
  simp only [State.lineByte, h]

theorem lineGap_of_subject {subject : Nat} (h : s.line.rx.gapSubject = some subject) :
    s.lineGap = (s.setLineRx .hunting).lineError subject := by
  simp only [State.lineGap, h]

theorem lineGap_hunting (h : s.line.rx = .hunting) : s.lineGap = s := by
  simp only [State.lineGap, h, LineRx.gapSubject]

/-- Settles O35: each byte by the receive state it finds, a record's bytes by `lineByte_lineFrame`, a gap by the kind
received before it. -/
theorem lineBytes : Obligations.LineBytes := by
  intro s hp abandons
  have abandoned : ∀ {subject}, s.line.rx.gapSubject = some subject → abandons subject := fun h =>
    becomes_of_act hp rfl (lineGap_of_subject h)
  refine ⟨fun b => ?bytes, fun kind payload h hl =>
      becomes_of_act (f := (·.lineBytes (lineFrame kind payload))) hp rfl (lineByte_lineFrame s kind payload h hl),
    fun h => becomes_of_act hp rfl (lineGap_hunting h), fun h => abandoned (by rw [h]; rfl),
    fun kind h => abandoned (by rw [h]; rfl), fun kind n stored h => abandoned (by rw [h]; rfl),
    fun kind stored low h => abandoned (by rw [h]; rfl)⟩
  case bytes =>
    intro waits
    have received : ∀ {u : State}, s.lineByte b = u → Becomes (.lineByteReceived b) s u := fun hu =>
      becomes_of_act (f := (·.lineByte b)) hp rfl hu
    have moves : ∀ {before after}, s.line.rx = before → before.step b = (after, none) → waits after := fun h hstep =>
      received (lineByte_of_step (h ▸ hstep))
    exact ⟨fun h hb => received ((lineByte_of_step (h ▸ step_hunting_other hb)).trans (setLineRx_self h)),
      fun h hb => moves h (hb ▸ rfl), fun h => moves h rfl,
      fun kind h hb => moves h (hb ▸ step_length_zero kind), fun kind h hb => moves h (step_length kind hb),
      fun kind n stored h hn => moves h (step_payload_more kind b hn),
      fun kind n stored h hn => moves h (step_payload_last kind b hn), fun kind stored h => moves h rfl,
      fun kind stored low h => received (lineByte_completes (by rw [h]; rfl))⟩

end Sys2Proof.Machine
end

section
/-! Which line records are well-formed: the fields that a payload's bytes carry, kind by kind, and the ranges they must be
in; a record that fails a test is a line error alone (R94, R95, R97). -/

namespace Sys2Proof.Machine

/-! ### The tests of R94 -/

/-- With its check and length right, a record is judged by its fields. -/
theorem judged_of_length {kind : Byte} {payload : List Byte} (h : inboundLength kind = some payload.length) :
    RawRecord.judged ⟨kind, payload, lineCheck kind payload⟩ = fieldsOf? kind payload :=
  if_pos ⟨rfl, h⟩

theorem judged_wrong_check {r : RawRecord} (h : lineCheck r.kind r.payload ≠ r.check) : r.judged = none :=
  if_neg fun h' => h h'.1

theorem judged_wrong_length {r : RawRecord} (h : inboundLength r.kind ≠ some r.payload.length) : r.judged = none :=
  if_neg fun h' => h h'.2

theorem inboundLength_other {kind : Byte} (h : kind ∉ [0x11, 0x12, 0x13, 0x14, 0x15]) : inboundLength kind = none := by
  simp only [List.mem_cons, List.not_mem_nil, or_false, not_or] at h
  obtain ⟨h1, h2, h3, h4, h5⟩ := h
  rw [inboundLength, if_neg h1, if_neg h2, if_neg h3, if_neg h4, if_neg h5]

theorem recordArrives_of_none {s : State} {r : RawRecord} (h : r.judged = none) :
    s.recordArrives r = s.lineError r.kind.toNat := by
  rw [State.recordArrives, h]

theorem recordArrives_of_some {s : State} {r : RawRecord} {inbound : Inbound} (h : r.judged = some inbound) :
    s.recordArrives r = s.passOn inbound := by
  rw [State.recordArrives, h]

/-! ### The fields of each kind (R95, R97) -/

theorem itemOf?_bytes {serial destination thickness length : Nat} (flags : Byte) (hs : serial < 4294967296)
    (hd : destination < 65536) (ht : thickness < 256) (hl : length < 65536) :
    itemOf? (u32 serial ++ u16 destination ++ u8 thickness ++ u16 length ++ [flags]) =
      if destination ≤ 4095 ∧ thickness ≤ 3 ∧ 40 ≤ length ∧ length ≤ 600 ∧ flags.toNat < 4 then
        some (.queued (.item ⟨serial, destination, thickness, length, flags.getLsbD 0, flags.getLsbD 1⟩))
      else none := by
  simp [itemOf?, u32At, u16At, byteAt, u32, u16, u8, bytes32 hs, bytes16 hd, bytes16 hl, Nat.mod_eq_of_lt ht, and_assoc]

theorem modeOf?_code (m : LineMode) : modeOf? m.code = some m := by cases m <;> rfl

theorem modeOf?_invalid {n : Nat} (h : 4 < n) : modeOf? n = none := by
  unfold modeOf?
  split
  case h_6 => rfl
  all_goals omega

theorem tachOf?_bytes {t drive belt valid : Nat} (ht : t < 256) (hd : drive < 65536) (hb : belt < 65536)
    (hv : valid < 256) :
    tachOf? (u8 t ++ u16 drive ++ u16 belt ++ u8 valid) =
      if t ≤ 31 ∧ valid ≤ 1 then some (.queued (.tach t drive belt (decide (valid = 1)))) else none := by
  have flag : byteAt (u8 t ++ u16 drive ++ u16 belt ++ u8 valid) 5 = valid := by
    simp [byteAt, u16, u8, Nat.mod_eq_of_lt hv]
  rw [tachOf?, flag, boolOf?_eq]
  by_cases h : valid ≤ 1
  · simp [h, u16At, byteAt, u16, u8, bytes16 hd, bytes16 hb, Nat.mod_eq_of_lt ht]
  · simp [h]

theorem jamOf?_bytes {t severity : Nat} (ht : t < 256) (hs : severity < 256) :
    jamOf? (u8 t ++ u8 severity) =
      if t ≤ 31 ∧ 1 ≤ severity ∧ severity ≤ 3 then some (.queued (.jam t severity)) else none := by
  simp [jamOf?, byteAt, u8, Nat.mod_eq_of_lt ht, Nat.mod_eq_of_lt hs, and_assoc]

theorem answerOf?_bytes {tag t answer : Nat} (hg : tag < 256) (ht : t < 256) (ha : answer < 256) :
    answerOf? (u8 tag ++ u8 t ++ u8 answer) =
      if tag ≤ 3 ∧ t ≤ 31 ∧ 1 ≤ answer ∧ answer ≤ 2 then some (.answer tag t (decide (answer = 1))) else none := by
  simp [answerOf?, byteAt, u8, Nat.mod_eq_of_lt hg, Nat.mod_eq_of_lt ht, Nat.mod_eq_of_lt ha, and_assoc,
    Bool.beq_eq_decide_eq]

/-- Settles O36: a record of its kind's length is judged by its fields, which are in range or not. -/
theorem recordsJudged : Obligations.RecordsJudged := by
  unfold Obligations.RecordsJudged
  intro judgedAs
  refine ⟨fun serial destination thickness length flags hs hd ht hl => ?item, fun mode hm => ?mode,
    fun t drive belt valid ht hd hb hv => ?tach, fun t severity ht hs => ?jam, fun tag t answer hg ht ha => ?answer,
    fun r h => ?fails, fun s r h => recordArrives_of_none h⟩
  case item =>
    intro p item
    have judged : judgedAs 0x11 p = _ := (judged_of_length rfl).trans (itemOf?_bytes flags hs hd ht hl)
    exact ⟨fun h => judged.trans (if_pos h), fun h => judged.trans (if_neg (by omega))⟩
  case mode =>
    have judged : judgedAs 0x12 (u8 mode) = (modeOf? mode).map fun m => .queued (.mode m) := by
      refine (judged_of_length rfl).trans ?_
      show (modeOf? (byteAt (u8 mode) 0)).map _ = _
      rw [byteAt_u8 hm]
    refine ⟨fun m hc => ?_, fun h => ?_⟩
    · rw [judged, ← hc, modeOf?_code]; rfl
    · rw [judged, modeOf?_invalid h]; rfl
  case tach =>
    intro p
    have judged : judgedAs 0x13 p = _ := (judged_of_length rfl).trans (tachOf?_bytes ht hd hb hv)
    exact ⟨fun h => judged.trans (if_pos h), fun h => judged.trans (if_neg (by omega))⟩
  case jam =>
    intro p
    have judged : judgedAs 0x14 p = _ := (judged_of_length rfl).trans (jamOf?_bytes ht hs)
    exact ⟨fun h => judged.trans (if_pos h), fun h => judged.trans (if_neg (by omega))⟩
  case answer =>
    intro p
    have judged : judgedAs 0x15 p = _ := (judged_of_length rfl).trans (answerOf?_bytes hg ht ha)
    exact ⟨fun h => judged.trans (if_pos h), fun h => judged.trans (if_neg (by omega))⟩
  case fails =>
    rcases h with hcheck | hkind | hlength
    · exact judged_wrong_check hcheck
    · exact judged_wrong_length (by rw [inboundLength_other hkind]; simp)
    · exact judged_wrong_length hlength

end Sys2Proof.Machine
end

section
/-! What a well-formed record does at its arrival: discarded in STARTING, queued or lost to overrun by its footprint, or a
hold answer that ends its slot's request or is stray (R97 to R100, R103 to R105, R109, R117, R118, R122). -/

namespace Sys2Proof.Machine

variable {s : State}

/-! ### Passing on (R98) -/

theorem passOn_starting (r : Inbound) (h : s.engine = .starting) : s.passOn r = s.discardStarting r := if_pos h

theorem passOn_queued (r : LineRecord) (h : s.engine ≠ .starting) : s.passOn (.queued r) = s.offer r := if_neg h

theorem passOn_answer (tag t : Nat) (granted : Bool) (h : s.engine ≠ .starting) :
    s.passOn (.answer tag t granted) = s.takeAnswer tag t granted := if_neg h

/-- In STARTING an ITEM is counted as received and not counted, another record leaves no trace (R103, R104). -/
theorem discardStarting_queued (r : LineRecord) :
    s.discardStarting (.queued r) = { s with
      wear := if r.isItem then
          { s.wear with received := s.wear.received + 1, notCounted := s.wear.notCounted + 1 }
        else s.wear } := by
  cases r <;> rfl

/-! ### The intake (R99, R100, R103) -/

theorem offer_fits {r : LineRecord} (h : s.line.used + r.footprint ≤ 2048) :
    s.offer r = { s with
      line := { s.line with intake := s.line.intake ++ [r] }
      wear := if r.isItem then { s.wear with received := s.wear.received + 1 } else s.wear } :=
  if_pos h

theorem offer_overruns {r : LineRecord} (h : 2048 < s.line.used + r.footprint) :
    s.offer r = { s with
      line := s.line.overrun r
      wear := if r.isItem then
          { s.wear with received := s.wear.received + 1, lost := s.wear.lost + 1 }
        else s.wear
      alerts := s.alerts.take (.raised .intakeOverrun r.kindCode) } :=
  if_neg (Nat.not_le.2 h)

/-! ### Hold answers (R105, R117, R118, R122) -/

theorem arbiterOn_of_ne (h : s.engine ≠ .starting) : s.arbiterOn = true := by
  simpa [State.arbiterOn] using h

theorem takeAnswer_stray {tag t : Nat} {granted : Bool}
    (h : s.hold.answer s.arbiterOn s.options.deferral tag t granted = none) :
    s.takeAnswer tag t granted = s.countStray := by
  rw [State.takeAnswer, h]

theorem takeAnswer_matched {tag t : Nat} {granted : Bool} {u : HoldUnit} {es : List AlertEvent}
    (he : s.engine ≠ .starting) (h : s.hold.answer true s.options.deferral tag t granted = some (u, es)) :
    s.takeAnswer tag t granted = { s with hold := u, alerts := s.alerts.takeAll es } := by
  rw [State.takeAnswer, arbiterOn_of_ne he, h]

section Answers

variable {h : HoldUnit} {tag t : Nat} (on : Bool) (deferral : Nat)

theorem answer_stray (granted : Bool) (hs : (h.slot tag).timer = none ∨ (h.slot tag).transport ≠ some t) :
    h.answer on deferral tag t granted = none := by
  refine if_neg ?_
  rcases hs with hs | hs <;> simp [hs]

/-- The answer names the slot's own transport while its timer runs. -/
theorem answer_matches (ht : (h.slot tag).timer ≠ none) (htr : (h.slot tag).transport = some t) :
    ((h.slot tag).timer.isSome && (h.slot tag).transport == some t) = true := by
  simp [htr, Option.isSome_iff_ne_none, ht]

variable (ht : (h.slot tag).timer ≠ none) (htr : (h.slot tag).transport = some t)
include ht htr

theorem answer_sent_granted (hs : (h.slot tag).state = .sent) :
    h.answer on deferral tag t true =
      some (((h.freeSlot tag .granted).setState t .held).arbiter on, [.raised .holdGranted t]) := by
  simp only [HoldUnit.answer, answer_matches ht htr, hs, ↓reduceIte]

theorem answer_sent_refused (hs : (h.slot tag).state = .sent) :
    h.answer on deferral tag t false =
      some (((h.freeSlot tag .refused).setState t (.deferred deferral)).arbiter on, [.raised .holdRefused t]) := by
  simp only [HoldUnit.answer, answer_matches ht htr, hs, ↓reduceIte]

theorem answer_aborting_granted (hs : (h.slot tag).state = .aborting) :
    h.answer on deferral tag t true = some (((h.freeSlot tag .aborted).joinRelease t).arbiter on, []) := by
  simp only [HoldUnit.answer, answer_matches ht htr, hs, ↓reduceIte]

theorem answer_aborting_refused (hs : (h.slot tag).state = .aborting) :
    h.answer on deferral tag t false = some ((h.freeSlot tag .aborted).arbiter on, []) := by
  simp only [HoldUnit.answer, answer_matches ht htr, hs, ↓reduceIte]

end Answers

/-- Settles O37: a record for the intake by the engine state and its room, a hold answer by its slot's timer, transport
and state. -/
theorem recordPassedOn : Obligations.RecordPassedOn := by
  refine ⟨fun s r => ⟨fun record hr => ?queued, fun tag t granted hr => ?answer⟩,
    fun l item mode t drive belt valid severity => ⟨rfl, fun _ => rfl, rfl, rfl, rfl, rfl⟩⟩
  case queued =>
    have arrives := recordArrives_of_some (s := s) hr
    refine ⟨fun h => ?_, fun h hfits => ?_, fun h hover => ?_⟩
    · rw [arrives, passOn_starting _ h, discardStarting_queued]
    · rw [arrives, passOn_queued _ h, offer_fits hfits]
    · rw [arrives, passOn_queued _ h, offer_overruns hover]
  case answer =>
    intro stray freed
    have arrives := recordArrives_of_some (s := s) hr
    refine ⟨fun h => ?_, fun h hs => ?_, fun h ht htr => ⟨fun hs hg => ?_, fun hs hg => ?_, fun hs hg => ?_,
      fun hs hg => ?_⟩⟩
    · rw [arrives, passOn_starting _ h]; rfl
    · rw [arrives, passOn_answer _ _ _ h, takeAnswer_stray (answer_stray _ _ _ hs)]; rfl
    all_goals
      subst hg
      rw [arrives, passOn_answer _ _ _ h]
    · exact takeAnswer_matched h (answer_sent_granted _ _ ht htr hs)
    · exact takeAnswer_matched h (answer_sent_refused _ _ ht htr hs)
    · exact takeAnswer_matched h (answer_aborting_granted _ _ ht htr hs)
    · exact takeAnswer_matched h (answer_aborting_refused _ _ ht htr hs)

end Sys2Proof.Machine
end

section
/-! Re-evaluations, the release, the arbiter and the post-restore pass (R108, R113 to R115, R121, R123, R127). -/

namespace Sys2Proof.Machine

variable {h : HoldUnit} {k t : Nat}

/-! ### The slots and the transmit list (R108, R112, R115) -/

/-- The slot that names a transport is the lowest that does. -/
theorem slotNaming_of_lowest {among : List SlotState} (hk : k < 4) (hs : (h.slot k).state ∈ among)
    (ht : (h.slot k).transport = some t)
    (hlow : ∀ j < k, (h.slot j).state ∈ among → (h.slot j).transport ≠ some t) :
    h.slotNaming? t among = some k := by
  refine List.find?_range_eq_some.2 ⟨by simp [hs, ht], List.mem_range.2 hk, fun j hj => ?_⟩
  by_cases hm : (h.slot j).state ∈ among
  · simp [hlow j hj hm]
  · simp [hm]

theorem slotNaming_of_none {among : List SlotState}
    (hn : ∀ k < 4, (h.slot k).state ∈ among → (h.slot k).transport ≠ some t) : h.slotNaming? t among = none := by
  refine List.find?_range_eq_none.2 fun k hk => ?_
  by_cases hm : (h.slot k).state ∈ among
  · simp [hn k hk hm]
  · simp [hm]

theorem lowestFree_of_lowest (hk : k < 4) (hf : (h.slot k).state = .free) (hlow : ∀ j < k, (h.slot j).state ≠ .free) :
    h.lowestFree? = some k :=
  List.find?_range_eq_some.2 ⟨by simp [hf], List.mem_range.2 hk, fun j hj => by simp [hlow j hj]⟩

theorem lowestFree_eq_none : h.lowestFree? = none ↔ ∀ k < 4, (h.slot k).state ≠ .free := by
  simp [HoldUnit.lowestFree?]

theorem mem_asks (st : SlotState) : st ∈ [SlotState.pending, .sent] ↔ st.asks = true := by
  cases st <;> simp [SlotState.asks]

/-- An entry whose sending has begun is not removed. -/
theorem removal_begun {e : TxEntry} (hs : h.sending = true) (hh : h.transmit.head? = some e) :
    h.removal e = .tooLate := by
  simp [HoldUnit.removal, hs, hh]

theorem removal_removed {e : TxEntry} (he : e ∈ h.transmit) (hb : ¬(h.sending = true ∧ h.transmit.head? = some e)) :
    h.removal e = .removed := by
  rw [HoldUnit.removal, if_neg (by simpa using hb), if_pos (List.contains_iff_mem.2 he)]

/-- An entry that is not in the list, or whose sending has begun, stays as it is. -/
theorem removal_ne_removed {e : TxEntry} (he : e ∉ h.transmit ∨ (h.sending = true ∧ h.transmit.head? = some e)) :
    h.removal e ≠ .removed := by
  rcases he with he | ⟨hs, hh⟩
  · unfold HoldUnit.removal
    split_ifs with hb hc
    · simp
    · exact absurd (List.contains_iff_mem.1 hc) he
    · simp
  · simp [removal_begun hs hh]

/-- A release joins the list unless it is there. -/
theorem joinRelease_eq (h : HoldUnit) (t : Nat) :
    h.joinRelease t =
      if .release t ∈ h.transmit then h else { h with transmit := h.transmit ++ [.release t], sending := true } := by
  simp only [HoldUnit.joinRelease, List.contains_iff_mem, HoldUnit.join]

/-! ### The wish is present (R113, R114) -/

theorem reevaluate_present_of_ne (on : Bool) (hc : h.state t ≠ .clear) : h.reevaluate on true t = h := by
  unfold HoldUnit.reevaluate
  rw [if_pos rfl]
  split
  · exact absurd ‹_› hc
  all_goals rfl

theorem reevaluate_present_clear (on : Bool) (hc : h.state t = .clear) :
    h.reevaluate on true t = h.wishAppears on t := by
  simp only [HoldUnit.reevaluate, hc, ↓reduceIte]

theorem wishAppears_reclaims (on : Bool) (hk : h.slotNaming? t [.aborting] = some k) :
    h.wishAppears on t =
      (h.setSlot k { h.slot k with
        state := if (h.slot k).timer = none then .pending else .sent }).setState t .asking := by
  simp only [HoldUnit.wishAppears, hk]
  cases (h.slot k).timer <;> rfl

theorem wishAppears_withdraws (on : Bool) (hn : h.slotNaming? t [.aborting] = none)
    (hr : h.removal (.release t) = .removed) :
    h.wishAppears on t = (h.without (.release t)).setState t .held := by
  simp only [HoldUnit.wishAppears, hn, hr]

theorem wishAppears_waits (on : Bool) (hn : h.slotNaming? t [.aborting] = none)
    (hr : h.removal (.release t) ≠ .removed) : h.wishAppears on t = h.joinWaiting on t := by
  simp only [HoldUnit.wishAppears, hn]
  split
  · exact absurd ‹_› hr
  all_goals rfl

/-! ### The wish is absent (R121) -/

theorem reevaluate_absent (on : Bool) (h : HoldUnit) (t : Nat) :
    h.reevaluate on false t = h.wishDisappears on t := rfl

theorem reevaluate_absent_clear (on : Bool) (hs : h.state t = .clear) : h.reevaluate on false t = h := by
  simp only [reevaluate_absent, HoldUnit.wishDisappears, hs]

theorem reevaluate_absent_waiting (on : Bool) (hs : h.state t = .waiting) :
    h.reevaluate on false t = HoldUnit.setState { h with waiting := h.waiting.erase t } t .clear := by
  simp only [reevaluate_absent, HoldUnit.wishDisappears, hs]

theorem reevaluate_absent_deferred (on : Bool) {countdown : Nat} (hs : h.state t = .deferred countdown) :
    h.reevaluate on false t = h.setState t .clear := by
  simp only [reevaluate_absent, HoldUnit.wishDisappears, hs]

theorem reevaluate_absent_held (on : Bool) (hs : h.state t = .held) :
    h.reevaluate on false t = (h.setState t .clear).joinRelease t := by
  simp only [reevaluate_absent, HoldUnit.wishDisappears, hs]

theorem reevaluate_absent_asking (on : Bool) (hs : h.state t = .asking)
    (hk : h.slotNaming? t [.pending, .sent] = some k) :
    h.reevaluate on false t = h.giveUp on k t .withdrawn := by
  simp only [reevaluate_absent, HoldUnit.wishDisappears, hs, hk]

/-! ### A slot gives up its request (R121, R123) -/

section GivesUp

variable (on : Bool) (outcome : SlotOutcome)

theorem giveUp_pending (hs : (h.slot k).state = .pending) :
    h.giveUp on k t outcome = ((h.withdraw k t outcome).setState t .clear).arbiter on := by
  simp only [HoldUnit.giveUp, hs]

theorem giveUp_sent (hs : (h.slot k).state = .sent) :
    h.giveUp on k t outcome = (h.setSlot k { h.slot k with state := .aborting }).setState t .clear := by
  simp only [HoldUnit.giveUp, hs]

theorem withdraw_removed (hr : h.removal (.request k t) = .removed) :
    h.withdraw k t outcome = (h.without (.request k t)).freeSlot k outcome := by
  simp only [HoldUnit.withdraw, hr]

theorem withdraw_late (hr : h.removal (.request k t) ≠ .removed) :
    h.withdraw k t outcome = h.setSlot k { h.slot k with state := .aborting, timer := none } := by
  unfold HoldUnit.withdraw
  split
  · exact absurd ‹_› hr
  all_goals rfl

end GivesUp

/-! ### The arbiter (R115) -/

/-- No transport waits, or no slot is FREE. -/
def HoldUnit.settled (h : HoldUnit) : Prop := h.waiting = [] ∨ ∀ k < 4, (h.slot k).state ≠ .free

/-- The FREE slots. -/
def HoldUnit.freeSlots (h : HoldUnit) : Finset Nat := {k ∈ Finset.range 4 | (h.slot k).state = .free}

theorem arbiterStep_settled (hs : h.settled) : h.arbiterStep = h := by
  unfold HoldUnit.arbiterStep
  split
  · rename_i t rest k hw hk
    rcases hs with hs | hs
    · rw [hs] at hw
      cases hw
    · rw [lowestFree_eq_none.2 hs] at hk
      cases hk
  · rfl

/-- The head of the waiting list takes the lowest FREE slot. -/
theorem arbiterStep_files {rest : List Nat} (hw : h.waiting = t :: rest) (hk : h.lowestFree? = some k) :
    h.arbiterStep =
      { (h.setSlot k { h.slot k with state := .pending, transport := some t, timer := none }).setState t .asking with
        waiting := rest
        transmit := h.transmit ++ [.request k t]
        sending := true } := by
  simp only [HoldUnit.arbiterStep, hw, hk]
  rfl

/-- A step of the arbiter that is not idle takes a FREE slot. -/
theorem arbiterStep_takes (hs : ¬h.settled) : h.arbiterStep.freeSlots.card < h.freeSlots.card := by
  obtain ⟨hw, hf⟩ := not_or.1 hs
  obtain ⟨t, rest, hw⟩ := List.exists_cons_of_ne_nil hw
  obtain ⟨k, hk⟩ := Option.ne_none_iff_exists'.1 (mt lowestFree_eq_none.1 hf)
  obtain ⟨h4, hfree⟩ := lowestFree_some hk
  have taken : h.arbiterStep.freeSlots = h.freeSlots.erase k := by
    ext j
    have slot : h.arbiterStep.slot j = (h.setSlot k ⟨.pending, some t, (h.slot k).outcome, none⟩).slot j := by
      rw [arbiterStep_files hw hk]
      rfl
    simp only [HoldUnit.freeSlots, Finset.mem_filter, Finset.mem_erase, slot, slot_setSlot]
    by_cases hj : j = k
    · simp [hj, h4]
    · simp [hj, Ne.symm hj]
  rw [taken]
  exact Finset.card_erase_lt_of_mem (Finset.mem_filter.2 ⟨Finset.mem_range.2 h4, hfree⟩)

/-- After `n` steps the arbiter is idle, or each has taken a FREE slot. -/
theorem arbiterSteps_settled (h : HoldUnit) (n : Nat) :
    (HoldUnit.arbiterStep^[n] h).settled ∨ (HoldUnit.arbiterStep^[n] h).freeSlots.card + n ≤ h.freeSlots.card := by
  induction n with
  | zero => exact .inr le_rfl
  | succ n ih =>
    rw [Function.iterate_succ_apply']
    by_cases hs : (HoldUnit.arbiterStep^[n] h).settled
    · exact .inl (by rwa [arbiterStep_settled hs])
    · have := arbiterStep_takes hs
      have := ih.resolve_left hs
      exact .inr (by omega)

/-- Four steps are enough, since there are four slots. -/
theorem arbiter_settled (h : HoldUnit) : (h.arbiter true).settled := by
  rcases arbiterSteps_settled h 4 with hs | hle
  · exact hs
  · have hfour : h.freeSlots.card ≤ 4 := (Finset.card_filter_le _ _).trans_eq (Finset.card_range 4)
    have hnone : (HoldUnit.arbiterStep^[4] h).freeSlots = ∅ := Finset.card_eq_zero.1 (by omega)
    exact .inr fun k hk hf => Finset.eq_empty_iff_forall_notMem.1 hnone k
      (Finset.mem_filter.2 ⟨Finset.mem_range.2 hk, hf⟩)

/-! ### The post-restore pass (R127) -/

/-- A transport joins the waiting list, with no run of the arbiter. -/
def HoldUnit.putWaiting (h : HoldUnit) (t : Nat) : HoldUnit :=
  HoldUnit.setState { h with waiting := h.waiting ++ [t] } t .waiting

theorem postRestore_eq (h : HoldUnit) (wish : Nat → Bool) :
    h.postRestore wish = ((List.range 32).filter wish).foldl HoldUnit.putWaiting h := rfl

/-- Transports that join one after another wait in that order, and nothing else changes but their states. -/
theorem putWaiting_frame (l : List Nat) (h : HoldUnit) :
    l.foldl HoldUnit.putWaiting h =
      { h with waiting := h.waiting ++ l, states := (l.foldl HoldUnit.putWaiting h).states } := by
  induction l generalizing h with
  | nil => simp
  | cons t l ih =>
    rw [List.foldl_cons, ih]
    simp [HoldUnit.putWaiting, HoldUnit.setState]

theorem putWaiting_state (l : List Nat) (h : HoldUnit) {t : Nat} (ht : t < 32) :
    (l.foldl HoldUnit.putWaiting h).state t = if t ∈ l then .waiting else h.state t := by
  induction l generalizing h with
  | nil => simp
  | cons u l ih =>
    have joined : (h.putWaiting u).state t = if u = t ∧ u < 32 then .waiting else h.state t := state_setState _ _ _ _
    rw [List.foldl_cons, ih, joined]
    by_cases hu : u = t
    · simp [hu, ht]
    · simp [hu, Ne.symm hu]

theorem fresh_state {t : Nat} (ht : t < 32) : HoldUnit.fresh.state t = .clear :=
  (tget_replicate _ _ _).trans (if_pos ht)

theorem postRestore_fresh (wish : Nat → Bool) :
    let g := HoldUnit.fresh.postRestore wish
    g.waiting = (List.range 32).filter wish ∧
    (∀ t < 32, g.state t = if wish t then .waiting else .clear) ∧
    { g with waiting := [], states := HoldUnit.fresh.states } = HoldUnit.fresh := by
  have frame := putWaiting_frame ((List.range 32).filter wish) .fresh
  refine ⟨congrArg HoldUnit.waiting frame, fun t ht => ?_, ?_⟩
  · rw [postRestore_eq, putWaiting_state _ _ ht, fresh_state ht]
    simp [ht]
  · rw [postRestore_eq, frame]
    rfl

/-- Settles O51: the re-evaluation by the wish and the hold state, a slot's request by its state and the removal's
answer, the arbiter by its steps. -/
theorem holdReevaluated : Obligations.HoldReevaluated := by
  refine ⟨fun h on t => ?_, fun h => ?arbiter, postRestore_fresh⟩
  case arbiter =>
    refine ⟨rfl, rfl, arbiter_settled h, arbiterStep_settled, fun t rest k hk hw hf hlow =>
      arbiterStep_files hw (lowestFree_of_lowest hk hf hlow)⟩
  intro begun release released
  have joins : ∀ u : HoldUnit, u.joinRelease t = released u := fun u => joinRelease_eq u t
  refine ⟨reevaluate_present_of_ne on, fun hc => ?present, reevaluate_absent_clear on, reevaluate_absent_waiting on,
    fun _ => reevaluate_absent_deferred on, fun hs => (reevaluate_absent_held on hs).trans (joins _),
    fun hs k hk ha htr hlow => ?asking, fun k outcome => ?gives, joins h⟩
  case present =>
    rw [reevaluate_present_clear on hc]
    refine ⟨fun k hk ha htr hlow => ?_, fun hn => ?_⟩
    · exact wishAppears_reclaims on (slotNaming_of_lowest hk (List.mem_singleton.2 ha) htr fun j hj hm =>
        hlow j hj (List.mem_singleton.1 hm))
    · have unnamed : h.slotNaming? t [.aborting] = none :=
        slotNaming_of_none fun k hk hm => hn k hk (List.mem_singleton.1 hm)
      exact ⟨fun hr hb => wishAppears_withdraws on unnamed (removal_removed hr hb),
        fun hr => wishAppears_waits on unnamed (removal_ne_removed hr)⟩
  case asking =>
    exact reevaluate_absent_asking on hs (slotNaming_of_lowest hk ((mem_asks _).2 ha) htr fun j hj hm =>
      hlow j hj ((mem_asks _).1 hm))
  case gives =>
    intro request
    refine ⟨fun hs hr hb => ?_, fun hs hr => ?_, giveUp_sent on outcome⟩
    · rw [giveUp_pending on outcome hs, withdraw_removed outcome (removal_removed hr hb)]
      rfl
    · rw [giveUp_pending on outcome hs, withdraw_late outcome (removal_ne_removed hr)]

end Sys2Proof.Machine
end

section
/-! The line record being sent, the event of its last byte, and a slot timer that runs out (R91, R97, R107, R116, R119,
R122; notes/assumptions/10.md). -/

namespace Sys2Proof.Machine

section Unit

variable {h : HoldUnit} {k t : Nat} {rest : List TxEntry}

/-! ### The bytes of a sent record (R91, R97) -/

/-- A line record is the bytes its check is over, after the start byte and before the check. -/
theorem lineFrame_eq (kind : Byte) (payload : List Byte) :
    lineFrame kind payload =
      [0x5A] ++ (kind :: u8 payload.length ++ payload) ++
        checkBytes (crc16 (kind :: u8 payload.length ++ payload)) := by
  simp [lineFrame, lineCheck]

theorem sentFrame_idle (hs : h.sending = false ∨ h.transmit = []) : h.sentFrame = none := by
  unfold HoldUnit.sentFrame
  rcases hs with hs | hs
  · simp only [hs]
  · rw [hs]
    cases h.sending <;> rfl

theorem sentFrame_sending {e : TxEntry} (hs : h.sending = true) (ht : h.transmit = e :: rest) :
    h.sentFrame = some e.frame := by
  simp only [HoldUnit.sentFrame, hs, ht]

/-! ### The end of a sent record (R107, R116) -/

theorem headSent_idle (timeout : Nat) (hs : h.sending = false) : h.headSent timeout = h := by
  simp only [HoldUnit.headSent, hs]

theorem headSent_release (timeout : Nat) (hs : h.sending = true) (ht : h.transmit = .release t :: rest) :
    h.headSent timeout = { h with transmit := rest, sending := !rest.isEmpty } := by
  simp only [HoldUnit.headSent, hs, ht]

theorem headSent_request (timeout : Nat) (hs : h.sending = true) (ht : h.transmit = .request k t :: rest) :
    h.headSent timeout = HoldUnit.requestSent timeout k { h with transmit := rest, sending := !rest.isEmpty } := by
  simp only [HoldUnit.headSent, hs, ht]

theorem requestSent_pending (timeout : Nat) (hs : (h.slot k).state = .pending) :
    h.requestSent timeout k = h.setSlot k { h.slot k with state := .sent, timer := some timeout } := by
  simp only [HoldUnit.requestSent, hs]

theorem requestSent_aborting (timeout : Nat) (hs : (h.slot k).state = .aborting) (ht : (h.slot k).timer = none) :
    h.requestSent timeout k = h.setSlot k { h.slot k with timer := some timeout } := by
  simp [HoldUnit.requestSent, hs, ht]

/-! ### A slot timer that runs out (R119, R122) -/

theorem expire_idle (on : Bool) (deferral : Nat) (ht : (h.slot k).timer = none) :
    h.expire on deferral k = (h, []) := by
  simp only [HoldUnit.expire, ht]

theorem expire_sent (on : Bool) (deferral : Nat) (ht : (h.slot k).timer ≠ none) (hs : (h.slot k).state = .sent)
    (htr : (h.slot k).transport = some t) :
    h.expire on deferral k =
      (((h.freeSlot k .lapsed).setState t (.deferred deferral)).arbiter on, [.raised .holdLapsed t]) := by
  obtain ⟨started, hstarted⟩ := Option.ne_none_iff_exists'.1 ht
  simp only [HoldUnit.expire, hstarted, hs, htr]

theorem expire_aborting (on : Bool) (deferral : Nat) (ht : (h.slot k).timer ≠ none)
    (hs : (h.slot k).state = .aborting) :
    h.expire on deferral k = ((h.freeSlot k .aborted).arbiter on, []) := by
  obtain ⟨started, hstarted⟩ := Option.ne_none_iff_exists'.1 ht
  simp only [HoldUnit.expire, hstarted, hs]

end Unit

/-- Settles O52: the frame of the head entry, its end by the kind of the entry and its slot's state, and an expiry by its
slot's state. -/
theorem holdEvents : Obligations.HoldEvents := by
  refine ⟨fun h rest => ⟨sentFrame_idle, fun k t hs ht => ?_, fun t hs ht => ?_⟩, fun s hp => ?_⟩
  · rw [sentFrame_sending hs ht, TxEntry.frame, lineFrame_eq]; rfl
  · rw [sentFrame_sending hs ht, TxEntry.frame, lineFrame_eq]; rfl
  · have sent : ∀ {u : HoldUnit}, s.hold.headSent s.options.answerTimeout = u →
        Becomes .lineTxSent s { s with hold := u } := fun hu =>
      becomes_of_act (f := fun s => { s with hold := s.hold.headSent s.options.answerTimeout }) hp rfl (hu ▸ rfl)
    have expired : ∀ {k u es}, s.hold.expire s.arbiterOn s.options.deferral k = (u, es) →
        Becomes (.holdTimerExpiry k) s { s with hold := u, alerts := s.alerts.takeAll es } := fun {k u es} he =>
      becomes_of_act (f := (·.expireSlot k)) hp rfl (by simp only [State.expireSlot, he])
    refine ⟨fun hs => sent (headSent_idle _ hs), fun t rest hs ht => sent (headSent_release _ hs ht),
      fun k t rest hs ht => ⟨fun hk => sent ?_, fun hk hidle => sent ?_⟩, fun k ht => (expired (expire_idle _ _ ht) :),
      fun k ht => ⟨fun t hs htr => (expired (expire_sent _ _ ht hs htr) :),
        fun hs => (expired (expire_aborting _ _ ht hs) :)⟩⟩
    · exact (headSent_request _ hs ht).trans (requestSent_pending _ hk)
    · exact (headSent_request _ hs ht).trans (requestSent_aborting _ hk hidle)

end Sys2Proof.Machine
end

section
/-! WAIVE HOLD, ABORT HOLD and RELEASE HOLD, and the waiver of a transport (R123 to R125; notes/assumptions/16.md). -/

namespace Sys2Proof.Machine

variable {s : State} {k n t setting : Nat} {f : Fitting}

/-! ### The waiver of a transport (R123, R124) -/

/-- The fitting that a waiver of a transport leaves: waived where it is the transport's and in LIMIT. -/
def Fitting.waivedFor (t : Nat) (f : Fitting) : Fitting :=
  if f.state = .limit ∧ f.settings.transport = t then { f with waived := true } else f

theorem waiveElement_assigned {e : Element} (h : e.position = .assigned f) :
    waiveElement t e = ⟨e.generation, .assigned (f.waivedFor t)⟩ := by
  simp only [waiveElement, h, Fitting.waivedFor, Bool.and_eq_true, beq_iff_eq]
  split
  · rfl
  · rw [← h]

theorem waiveElement_unassigned {e : Element} (h : e.fitting? = none) : waiveElement t e = e := by
  unfold waiveElement
  split
  · rename_i hf
    rw [Element.fitting?, hf] at h
    cases h
  all_goals rfl

theorem element_waiveTransport (s : State) (t i : Nat) :
    (s.waiveTransport t).element i = waiveElement t (s.element i) :=
  tget_tmap_default _ _ _ _ rfl

theorem fitting?_waiveTransport {i : Nat} (h : s.fitting? i = some f) :
    (s.waiveTransport t).fitting? i = some (f.waivedFor t) := by
  rw [fitting?_eq_some, element_waiveTransport, waiveElement_assigned (fitting?_eq_some.1 h)]

/-- A wish needs an element in LIMIT that is not waived (R11), and a waiver of the transport leaves none. -/
theorem wish_waiveTransport (s : State) (t : Nat) : (s.waiveTransport t).wish t = false := by
  rw [Bool.eq_false_iff]
  intro hw
  obtain ⟨i, -, f, hf, hlimit, htransport, -, hwaived⟩ := (wishOf_iff _ _).1 hw
  have after : (s.waiveTransport t).fitting? i = some f := fitting?_eq_some.2 hf
  cases before : s.fitting? i with
  | none =>
    rw [State.fitting?, element_waiveTransport, waiveElement_unassigned before] at after
    cases before.symm.trans after
  | some g =>
    obtain rfl : g.waivedFor t = f := Option.some.inj ((fitting?_waiveTransport before).symm.trans after)
    unfold Fitting.waivedFor at hlimit htransport hwaived
    split at hwaived
    · cases hwaived
    · rename_i hg
      rw [if_neg hg] at hlimit htransport
      exact hg ⟨hlimit, htransport⟩

/-! ### WAIVE HOLD (R125) -/

theorem waiveHoldWork_unlimited (hn : n ≤ 239) (hf : ∀ f, s.fitting? n = some f → f.state ≠ .limit) :
    waiveHoldWork n setting s = refuse s .elementState := by
  rw [waiveHoldWork, if_neg (Nat.not_lt.2 hn)]
  cases hs : s.fitting? n with
  | none => rfl
  | some f => exact if_neg (hf f hs)

theorem waiveHoldWork_invalid (hn : n ≤ 239) (hf : s.fitting? n = some f) (hl : f.state = .limit)
    (hv : 1 < setting) : waiveHoldWork n setting s = refuse s .badValue := by
  rw [waiveHoldWork, if_neg (Nat.not_lt.2 hn), hf]
  simp only [hl, boolOf?_invalid hv, if_true]

theorem waiveHoldWork_valid (hn : n ≤ 239) (hf : s.fitting? n = some f) (hl : f.state = .limit)
    (hv : setting ≤ 1) :
    waiveHoldWork n setting s =
      accept (s.setWaiver n f (decide (setting = 1))) (u8 n ++ flag (decide (setting = 1))) := by
  rw [waiveHoldWork, if_neg (Nat.not_lt.2 hn), hf]
  simp only [hl, boolOf?_eq, if_pos hv, if_true]

theorem flag_of_le_one (hv : setting ≤ 1) : flag (decide (setting = 1)) = u8 setting := by
  interval_cases setting <;> rfl

/-! ### ABORT HOLD (R123) -/

theorem abortHoldWork_idle (hk : k ≤ 3) (hs : (s.hold.slot k).state = .free ∨ (s.hold.slot k).state = .aborting) :
    abortHoldWork k s = refuse s .notFound := by
  rw [abortHoldWork, if_neg (Nat.not_lt.2 hk)]
  rcases hs with hs | hs <;> rw [hs]

theorem abortHoldWork_asks (hk : k ≤ 3) (hs : (s.hold.slot k).state.asks = true)
    (ht : (s.hold.slot k).transport = some t) :
    abortHoldWork k s =
      accept (s.abort k t) (u8 k ++ u8 t ++ u8 (s.hold.abortedState k t).code ++ u8 (s.limitCount t)) := by
  rw [abortHoldWork, if_neg (Nat.not_lt.2 hk)]
  rcases List.mem_pair.1 ((mem_asks _).2 hs) with hs | hs <;> rw [hs, ht]

/-- An aborted slot frees where its request is taken off the transmit list, and else waits for its answer (R123). -/
theorem abortedState_eq {h : HoldUnit} (hk : k ≤ 3) (hs : (h.slot k).state.asks = true) :
    h.abortedState k t =
      if (h.slot k).state = .pending ∧ h.removal (.request k t) = .removed then .free else .aborting := by
  have h4 : k < 4 := by omega
  rcases List.mem_pair.1 ((mem_asks _).2 hs) with hs | hs
  · simp only [HoldUnit.abortedState, hs, true_and]
    split
    · rename_i hr
      rw [withdraw_removed .aborted hr, HoldUnit.freeSlot, slot_setSlot, if_pos ⟨rfl, h4⟩]
    · rename_i hr
      rw [withdraw_late .aborted hr, slot_setSlot, if_pos ⟨rfl, h4⟩]
  · simp only [HoldUnit.abortedState, hs]
    exact (if_neg fun hc => nomatch hc.1).symm

/-! ### RELEASE HOLD (R124) -/

theorem releaseHoldWork_valid (ht : t ≤ 31) :
    releaseHoldWork t s =
      accept ((s.waiveTransport t).reevaluate t)
        (u8 t ++ u8 (((s.waiveTransport t).reevaluate t).hold.state t).code ++ u8 (s.limitCount t)) :=
  if_neg (Nat.not_lt.2 ht)

/-- Settles O22: each request by its work, the state an aborted slot is left in by the removal's answer, and a waiver
element by element. -/
theorem holdRequests : Obligations.HoldRequests := by
  refine ⟨fun s code => ⟨fun n setting h => ⟨fun hn => request_refuses h (if_pos hn),
      fun hn hf => request_refuses h (waiveHoldWork_unlimited hn hf), fun f hn hf hl => ?waive⟩,
    fun k h => ⟨fun hk => request_refuses h (if_pos hk), fun hk hs => request_refuses h (abortHoldWork_idle hk hs),
      fun t hk hs ht => ?abort⟩,
    fun t h => ⟨fun ht => request_refuses h (if_pos ht), fun ht => request_accepts h (releaseHoldWork_valid ht)⟩⟩,
    fun s t => ⟨fun i f => fitting?_waiveTransport, fun i hf => ?_, wish_waiveTransport s t⟩⟩
  case waive =>
    refine ⟨fun hv => request_refuses h (waiveHoldWork_invalid hn hf hl hv), fun hv => request_accepts h ?_⟩
    rw [waiveHoldWork_valid hn hf hl hv, flag_of_le_one hv]
    rfl
  case abort =>
    refine request_accepts h ?_
    rw [abortHoldWork_asks hk hs ht, abortedState_eq hk hs]
    rfl
  · rw [element_waiveTransport, waiveElement_unassigned hf]

end Sys2Proof.Machine
end

section
/-! The restore and the end of a start-up (R127, R173 to R175; notes/assumptions/8.md). -/

namespace Sys2Proof.Machine

variable {s : State}

/-! ### The restore (R173, R174) -/

theorem restore_done (hr : s.ckpt.restored = true) : s.restore = s := if_pos hr

theorem restoreHeader_written {st : Store} {h : HeaderRecord} (hh : st.checkedHeader = .written h) :
    s.restoreHeader st =
      { s with
        routes := { s.routes with masks := h.masks, routes := h.routes, commonPath := h.commonPath }
        options := h.options
        alerts := { s.alerts with mask := h.noticeMask }
        ckpt := { s.ckpt with sequence := h.sequence } } := by
  rw [State.restoreHeader, hh]

theorem restoreHeader_otherwise {st : Store} (hh : ∀ h, st.checkedHeader ≠ .written h) : s.restoreHeader st = s := by
  unfold State.restoreHeader
  split
  · exact absurd ‹_› (hh _)
  all_goals rfl

/-- The elements that start SUSPECT are counted over the table (R173). -/
theorem length_suspectIndexes (es : Vector Element 240) :
    (suspectIndexes es).length = (tlist es).countP Element.isSuspect := by
  rw [suspectIndexes_eq_range, tlist_eq_range es .vacant, List.countP_map, List.countP_eq_length_filter]
  rfl

/-- A restore not yet made: what the header slot gives, and then the elements and the counts. -/
theorem restore_of_header {u : State} (hr : s.ckpt.restored = false)
    (hu : State.restoreHeader { s with store := s.restoreStore, plan := .fresh } s.restoreStore = u) :
    s.restore =
      { u with
        elements := s.restoreStore.restored
        ckpt := { u.ckpt with
          outcome := s.restoreStore.outcome
          stale := s.restoreStore.staleCount
          suspects := (tlist s.restoreStore.restored).countP Element.isSuspect
          erasing := false
          restored := true }
        alerts := u.alerts.takeAll s.restoreStore.restoreAlerts } := by
  rw [State.restore, if_neg (Bool.eq_false_iff.1 hr), ← length_suspectIndexes, ← hu]
  rfl

/-! ### The end of a start-up (R175) -/

theorem chosenEngine_written {st : Store} {h : HeaderRecord} (hh : st.checkedHeader = .written h) :
    st.chosenEngine =
      if h.engine = .counting ∧ (tlist st.restored).any Element.isSuspect = false then .counting else .stopped := by
  simp only [Store.chosenEngine, hh, Bool.and_eq_true, beq_iff_eq, decide_eq_true_eq, suspectIndexes_eq_nil_iff]

theorem chosenEngine_otherwise {st : Store} (hh : ∀ h, st.checkedHeader ≠ .written h) :
    st.chosenEngine = .stopped := by
  unfold Store.chosenEngine
  split
  · exact absurd ‹_› (hh _)
  all_goals rfl

theorem endStartup_eq {r : State} {engine : EngineState} (hr : s.restore = r) (he : r.store.chosenEngine = engine) :
    s.endStartup =
      { r with
        engine := engine
        timer := { r.timer with running := true }
        hold := (HoldUnit.fresh.postRestore r.wish).arbiter true
        plan := .fresh } := by
  subst hr he
  rfl

/-- STARTUP_END in STARTING with other events to come between: the restore alone (notes/assumptions/8.md). -/
theorem startupEnd_restores {r : State} (hp : s.powered = true) (he : s.engine = .starting) (hc : s.cut ≠ none)
    (hr : s.cutTaken.restore = r) : Becomes .startupEnd s r := by
  obtain ⟨n, hn⟩ := Option.ne_none_iff_exists'.1 hc
  refine becomes_of_act hp rfl ?_
  rw [if_pos he, hn]
  exact hr

theorem startupEnd_ends {u : State} (hp : s.powered = true) (he : s.engine = .starting) (hc : s.cut = none)
    (hu : s.cutTaken.endStartup = u) : Becomes .startupEnd s u := by
  refine becomes_of_act hp rfl ?_
  rw [if_pos he, hc]
  exact hu

/-- Settles O34: the restore by what the header slot reads as, and the end by the header of the store it left. -/
theorem startupEnds : Obligations.StartupEnds := by
  intro s hp he st begun ckpt ends
  have ending : ∀ r, s.cutTaken.restore = r → ends r := by
    intro r hr
    refine ⟨fun hc => startupEnd_restores hp he hc hr, fun hc => startupEnd_ends hp he hc (endStartup_eq hr ?_)⟩
    cases hh : r.store.checkedHeader with
    | written h => exact chosenEngine_written hh
    | blank | torn => exact chosenEngine_otherwise (by simp [hh])
  exact ⟨fun h hr hh => ending _ (restore_of_header (s := s.cutTaken) hr (restoreHeader_written hh)),
    fun hr hh => ending _ (restore_of_header (s := s.cutTaken) hr (restoreHeader_otherwise hh)),
    fun hr => ending _ (restore_done (s := s.cutTaken) hr)⟩

end Sys2Proof.Machine
end

section
/-! The minute tick at the hold unit (R120). -/

namespace Sys2Proof.Machine

/-- The tick at one transport: a countdown that has come to 0 ends by the wish, and any other state stays. -/
theorem endDeferral_eq (wish : Nat → Bool) (h : HoldUnit) (t : Nat) :
    h.endDeferral wish t =
      if h.state t = .deferred 0 then
        HoldUnit.setState { h with waiting := h.waiting ++ [t].filter wish } t (if wish t then .waiting else .clear)
      else h := by
  unfold HoldUnit.endDeferral
  split
  · rename_i hs
    rw [if_pos hs]
    cases hw : wish t <;> simp [hw]
  · rename_i hs
    rw [if_neg hs]

theorem state_lt_of_ne_clear {h : HoldUnit} {t : Nat} (hs : h.state t ≠ .clear) : t < 32 :=
  not_le.1 fun ht => hs (tget_of_le _ _ ht)

theorem endDeferral_state (wish : Nat → Bool) (h : HoldUnit) (u t : Nat) :
    (h.endDeferral wish u).state t =
      if u = t ∧ h.state t = .deferred 0 then (if wish t then .waiting else .clear) else h.state t := by
  by_cases hs : h.state u = .deferred 0
  · have hu : u < 32 := state_lt_of_ne_clear (h := h) (by simp [hs])
    have unmoved : HoldUnit.state { h with waiting := h.waiting ++ [u].filter wish } t = h.state t := rfl
    rw [endDeferral_eq, if_pos hs, state_setState, unmoved]
    by_cases ht : u = t
    · subst ht
      simp [hs, hu]
    · simp [ht]
  · rw [endDeferral_eq, if_neg hs, if_neg]
    rintro ⟨rfl, ht⟩
    exact hs ht

theorem endDeferral_waiting (wish : Nat → Bool) (h : HoldUnit) (t : Nat) :
    (h.endDeferral wish t).waiting = h.waiting ++ ([t].filter fun u => h.state u = .deferred 0).filter wish := by
  rw [endDeferral_eq]
  by_cases hs : h.state t = .deferred 0 <;> simp [hs, HoldUnit.setState]

/-- A pass over the transports leaves the slots and the transmit list as they are. -/
theorem endDeferrals_frame (wish : Nat → Bool) (l : List Nat) (h : HoldUnit) :
    let g := l.foldl (HoldUnit.endDeferral wish) h
    g.slots = h.slots ∧ g.transmit = h.transmit ∧ g.sending = h.sending := by
  have one : ∀ (u : HoldUnit) t,
      ((u.endDeferral wish t).slots, (u.endDeferral wish t).transmit, (u.endDeferral wish t).sending) =
        (u.slots, u.transmit, u.sending) := fun u t => by
    rw [endDeferral_eq]
    split <;> rfl
  simpa only [Prod.mk.injEq] using foldl_keeps (fun u : HoldUnit => (u.slots, u.transmit, u.sending)) one l h

/-- A pass leaves each transport it visits as that transport's own tick does. -/
theorem endDeferrals_state (wish : Nat → Bool) (l : List Nat) (h : HoldUnit) (t : Nat) :
    (l.foldl (HoldUnit.endDeferral wish) h).state t =
      if t ∈ l ∧ h.state t = .deferred 0 then (if wish t then .waiting else .clear) else h.state t := by
  induction l generalizing h with
  | nil => simp
  | cons u l ih =>
    rw [List.foldl_cons, ih, endDeferral_state]
    by_cases hu : u = t
    · subst hu
      by_cases hs : h.state u = .deferred 0
      · cases wish u <;> simp [hs]
      · simp [hs]
    · simp [hu, Ne.symm hu]

/-- The transports whose countdown has ended join the list in the order of the pass. -/
theorem endDeferrals_waiting (wish : Nat → Bool) (l : List Nat) (h : HoldUnit) (hl : l.Nodup) :
    (l.foldl (HoldUnit.endDeferral wish) h).waiting =
      h.waiting ++ (l.filter fun t => h.state t = .deferred 0).filter wish := by
  induction l generalizing h with
  | nil => simp
  | cons u l ih =>
    obtain ⟨hu, hl⟩ := List.nodup_cons.1 hl
    have others : (l.filter fun t => (h.endDeferral wish u).state t = .deferred 0) =
        l.filter fun t => h.state t = .deferred 0 := by
      refine List.filter_congr fun t ht => ?_
      have hne : u ≠ t := fun he => hu (he ▸ ht)
      rw [endDeferral_state, if_neg fun hc => hne hc.1]
    rw [List.foldl_cons, ih _ hl, others, endDeferral_waiting, List.append_assoc, ← List.filter_append,
      ← List.filter_append, List.singleton_append]

/-- A countdown is at its end once it has fallen where it stood at 1 or 0. -/
theorem countDown_ended {h : HoldUnit} {t : Nat} :
    h.countDown.state t = .deferred 0 ↔ h.state t = .deferred 1 ∨ h.state t = .deferred 0 := by
  rw [countDown_state]
  cases h.state t with
  | deferred c =>
    simp only [HoldState.deferred.injEq]
    omega
  | clear | waiting | asking | held => simp

/-- Settles O50: the countdowns fall, the pass over the transports ends those at 0, and the arbiter runs. -/
theorem holdTick : Obligations.HoldTick := by
  intro h on wish ending
  have ended : ∀ t, t < 32 → (t ∈ ending ↔ h.countDown.state t = .deferred 0) := fun t ht => by
    simp [ending, ht, countDown_ended]
  have state : ∀ t, t < 32 → ((List.range 32).foldl (HoldUnit.endDeferral wish) h.countDown).state t =
      if t ∈ ending then (if wish t then .waiting else .clear) else h.countDown.state t := fun t ht => by
    simp only [endDeferrals_state, List.mem_range, ht, true_and, ended t ht]
  obtain ⟨hslots, htransmit, hsending⟩ := endDeferrals_frame wish (List.range 32) h.countDown
  refine ⟨(List.range 32).foldl (HoldUnit.endDeferral wish) h.countDown, rfl, hslots, htransmit, hsending, ?_,
    fun t ht => ⟨fun he => ?_, fun c hc => ?_, fun hn => ?_⟩⟩
  · rw [endDeferrals_waiting wish _ _ List.nodup_range]
    simp only [countDown_ended, ending]
    rfl
  · rw [state t ht, if_pos he]
  · have fallen : h.countDown.state t = .deferred (c + 1) := by rw [countDown_state, hc]; rfl
    rw [state t ht, if_neg (by simp [ended t ht, fallen]), fallen]
  · have stays : h.countDown.state t = h.state t := by
      rw [countDown_state]
      split
      · exact absurd ‹_› (hn _)
      · rfl
    rw [state t ht, if_neg (by rw [ended t ht, stays]; exact hn 0), stays]

end Sys2Proof.Machine
end

section
/-! The projection of an assigned element by the rows of R138, and one element's roll (R135). -/

namespace Sys2Proof.Machine

section

variable {f : Fitting} {L c m : Nat}

theorem reachedDue_iff {st : AssignedState} : st.reachedDue = true ↔ st = .due ∨ st = .limit := by
  cases st <;> decide

theorem projected_reachedDue (h : f.state.reachedDue = true) (clock : Option Nat) : f.projected L clock = .now :=
  if_pos h

theorem projected_clockUnset (h : f.state.reachedDue = false) : f.projected L none = .unknown := by
  rw [Fitting.projected, h]
  rfl

/-- Below DUE, with the clock set and two intervals closed, the history decides. -/
theorem projected_rated (h : f.state.reachedDue = false) (hk : 2 ≤ f.intervals) :
    f.projected L (some c) =
      if f.rateSum = 0 then .never
      else if maxMinute < c + f.minutesToDue L then .never
      else .minute (c + f.minutesToDue L) := by
  rw [Fitting.projected, h]
  exact if_neg (Nat.not_lt.2 hk)

/-- The minutes to due are the least whose charge, at the rate of the history, reaches due. -/
theorem minutesToDue_eq (hs : 0 < f.rateSum)
    (hle : (f.settings.due - f.accumulator) * f.rateIntervals * L ≤ m * f.rateSum)
    (hlt : m * f.rateSum < (f.settings.due - f.accumulator) * f.rateIntervals * L + f.rateSum) :
    f.minutesToDue L = m := by
  refine Nat.div_eq_of_lt_le ?_ ?_
  · omega
  · rw [Nat.succ_mul]
    omega

end

/-- Settles O47: the rows of R138 in their order; the roll is its definition. -/
theorem projectionAndRoll : Obligations.ProjectionAndRoll := by
  intro f L clock n sum toGo g
  refine ⟨fun h => projected_reachedDue (reachedDue_iff.2 h) clock, fun hd hl => ?_, rfl⟩
  have below : f.state.reachedDue = false :=
    Bool.eq_false_iff.2 fun h => (reachedDue_iff.1 h).elim hd hl
  refine ⟨?_, fun hk => ?_, ?_⟩
  · rintro rfl
    exact projected_clockUnset below
  · rw [projected_new hk, below]
    rfl
  · rintro c rfl hk
    refine ⟨fun hs => ?_, fun m hs hle hlt => ?_⟩
    · rw [projected_rated below hk]
      exact if_pos hs
    · rw [projected_rated below hk, if_neg (show f.rateSum ≠ 0 from hs.ne'), minutesToDue_eq hs hle hlt]
      exact ⟨fun hc => if_neg (Nat.not_lt.2 hc), fun hc => if_pos hc⟩

end Sys2Proof.Machine
end

section
/-! SET CLOCK and SET OPTIONS: the values they accept, and what an accepted one sets, drops and restarts (R130 to R133,
R136, R188; notes/assumptions/5.md, 21.md). -/

namespace Sys2Proof.Machine

/-! ### SET CLOCK (R131 to R133) -/

section

variable {s : State} {v : Nat}

theorem setClockWork_badValue (hv : maxMinute < v) : setClockWork v s = refuse s .badValue := if_pos hv

theorem setClockWork_wrongState (hv : v ≤ maxMinute) (hc : s.clock ≠ none) (he : s.engine = .counting) :
    setClockWork v s = refuse s .wrongState := by
  rw [setClockWork, if_neg (Nat.not_lt.2 hv), if_pos]
  rw [Option.isSome_iff_ne_none.2 hc, he]
  rfl

theorem setClockWork_accepts (hv : v ≤ maxMinute) (h : s.clock = none ∨ s.engine ≠ .counting) :
    setClockWork v s = accept (s.moveClock v) (u32 v) := by
  rw [setClockWork, if_neg (Nat.not_lt.2 hv), if_neg]
  rw [Bool.and_eq_true, Option.isSome_iff_ne_none, beq_iff_eq]
  rintro ⟨hc, he⟩
  exact h.elim hc fun hn => hn he

/-- An accepted value: the clock, the end of CLOCK_UNSET where it held, the windows it ends, and the plan. -/
theorem moveClock_eq (s : State) (v : Nat) :
    s.moveClock v =
      State.replan
        { s with
          clock := some v
          alerts := if s.clock = none then s.alerts.take (.conditionEnded .clockUnset) else s.alerts
          plan := s.plan.dropEnded v } := by
  rw [State.moveClock, State.putClock]
  cases s.clock <;> rfl

end

/-- Settles O11, by the value, the clock and the engine state. -/
theorem setClock : Obligations.SetClock := by
  intro s code v hs
  refine ⟨fun hv => request_refuses hs (setClockWork_badValue hv),
    fun hv hc he => request_refuses hs (setClockWork_wrongState hv hc he), fun hv h => ?_⟩
  refine (request_accepts hs (setClockWork_accepts hv h)).trans ?_
  rw [moveClock_eq]

/-! ### SET OPTIONS (R130, R136, R188) -/

/-- The options that SET OPTIONS carries, before their ranges are tested. -/
def optionsCarried (fields : OptionFields) : Options where
  intervalLength := fields.intervalLength
  horizon := fields.horizon
  companionPercent := fields.companionPercent
  slipLimit := fields.slipLimit
  slipSetCount := fields.slipSetCount
  slipClearCount := fields.slipClearCount
  slipFactor := fields.slipFactor
  minimumDrive := fields.minimumDrive
  answerTimeout := fields.answerTimeout
  deferral := fields.deferral
  autoSave := decide (fields.autoSave = 1)

theorem optionsOf?_eq (fields : OptionFields) :
    optionsOf? fields =
      if fields.autoSave ≤ 1 ∧ (optionsCarried fields).ok = true then some (optionsCarried fields) else none := by
  rw [optionsOf?, boolOf?_eq]
  by_cases h : fields.autoSave ≤ 1
  · simp only [h, if_true, true_and]
    rfl
  · simp only [h, if_false, false_and]

section

variable {s : State} {fields : OptionFields} {o : Options}

theorem setOptionsWork_badValue (ho : optionsOf? fields = none) : setOptionsWork fields s = refuse s .badValue := by
  rw [setOptionsWork, ho]

theorem setOptionsWork_wrongState (ho : optionsOf? fields = some o) (hL : o.intervalLength ≠ s.options.intervalLength)
    (he : s.engine ≠ .stopped) : setOptionsWork fields s = refuse s .wrongState := by
  rw [setOptionsWork, ho]
  exact if_pos ⟨hL, he⟩

theorem setOptionsWork_accepts (ho : optionsOf? fields = some o)
    (h : o.intervalLength = s.options.intervalLength ∨ s.engine = .stopped) :
    setOptionsWork fields s = accept (s.putOptions o) [] := by
  rw [setOptionsWork, ho]
  exact if_neg fun hn => h.elim hn.1 hn.2

theorem putOptions_sameLength (hL : o.intervalLength = s.options.intervalLength) :
    s.putOptions o = { s with options := o } := if_pos hL

theorem putOptions_newLength (hL : o.intervalLength ≠ s.options.intervalLength) :
    s.putOptions o = { s.restartIntervals with options := o } := if_neg hL

theorem finishBoundary_idle (hb : s.timer.boundary = none) (hs : s.timer.snapshot = false) : s.finishBoundary = s := by
  rw [finishBoundary_none hb, deliverSnapshot_none hs]

/-- The restart of every assigned element's intervals, with its projection by state (R130, R139). -/
theorem restartTable_eq (es : Vector Element 240) :
    restartTable es =
      tmap (Element.onFitting fun f =>
        { f with
          history := List.replicate 16 0
          intervals := 0
          intervalWear := 0
          projection := if f.state = .due ∨ f.state = .limit then .now else .unknown }) es := by
  refine congrArg (fun g => tmap (Element.onFitting g) es) (funext fun f => ?_)
  rw [Fitting.restarted, startProjection_eq]
  rfl

end

/-- Settles O13: the work by its branches, the accepted options by `optionsOf?_eq`, their ranges by R188. -/
theorem setOptions : Obligations.SetOptions := by
  refine ⟨fun s code fields hs => ⟨fun ho => request_refuses hs (setOptionsWork_badValue ho),
    fun o ho hL he => request_refuses hs (setOptionsWork_wrongState ho hL he), fun o ho hL => ?_,
    fun o ho hL he => ?_, finishBoundary_idle⟩, fun fields o => ?_, fun o => ?_⟩
  · refine (request_accepts hs (setOptionsWork_accepts ho (.inl hL))).trans ?_
    rw [putOptions_sameLength hL]
  · refine (request_accepts hs (setOptionsWork_accepts ho (.inr he))).trans ?_
    rw [putOptions_newLength hL, State.restartIntervals, restartTable_eq]
  · rw [optionsOf?_eq, Option.ite_none_right_eq_some, Option.some.injEq]
    constructor
    · rintro ⟨⟨ha, hok⟩, rfl⟩
      exact ⟨hok, ha, rfl⟩
    · rintro ⟨hok, ha, rfl⟩
      exact ⟨⟨ha, hok⟩, rfl⟩
  · simp only [Options.ok, Bool.and_eq_true, decide_eq_true_eq, List.contains_iff_mem, and_assoc]

end Sys2Proof.Machine
end

section
/-! SUPPORT. What the plan's shared operations can do: the queue's order, an element's entry, and the loads of the
windows (R142, R146, R147). -/

namespace Sys2Proof.Machine

variable {es : Vector Element 240} {ws : Vector (Option Window) 8} {q r : List PlanEntry} {e x : PlanEntry}
  {c i j k cost : Nat} {w : Window}

/-! ### The order (R147) -/

theorem insertEntry_perm (c : Nat) (e : PlanEntry) (q : List PlanEntry) : (insertEntry c e q).Perm (e :: q) := by
  induction q with
  | nil => exact .refl _
  | cons x q ih =>
    rw [insertEntry]
    split
    · exact .refl _
    · exact (ih.cons x).trans (.swap e x q)

theorem orderEntries_perm (c : Nat) (q : List PlanEntry) : (orderEntries c q).Perm q := by
  induction q with
  | nil => exact .refl _
  | cons x q ih => exact (insertEntry_perm c x _).trans (ih.cons x)

/-! ### An element's entry -/

/-- An entry with the others beside it, in a queue of one entry an element. -/
theorem perm_cons_of_mem (hn : (q.map PlanEntry.element).Nodup) (he : e ∈ q) :
    ∃ r, q.Perm (e :: r) ∧ ∀ x ∈ r, x.element ≠ e.element := by
  refine ⟨q.erase e, List.perm_cons_erase he, fun x hx hxe => ?_⟩
  have hn' := ((List.perm_cons_erase he).map PlanEntry.element).nodup_iff.1 hn
  exact (List.nodup_cons.1 hn').1 (hxe ▸ List.mem_map_of_mem hx)

theorem filter_perm (h : q.Perm (e :: r)) (hr : ∀ x ∈ r, x.element ≠ e.element) :
    (q.filter fun x => x.element != e.element).Perm r := by
  refine (h.filter _).trans (.of_eq ?_)
  rw [List.filter_cons_of_neg (by simp), List.filter_eq_self.2]
  exact fun x hx => bne_iff_ne.2 (hr x hx)

theorem update_perm (h : q.Perm (e :: r)) (hr : ∀ x ∈ r, x.element ≠ e.element) (g : PlanEntry → PlanEntry) :
    (q.map fun x => if x.element == e.element then g x else x).Perm (g e :: r) := by
  refine (h.map _).trans (.of_eq ?_)
  rw [List.map_cons, beq_self_eq_true, if_pos rfl]
  refine congrArg _ ((List.map_congr_left fun x hx => if_neg ?_).trans (List.map_id _))
  simpa using hr x hx

theorem mem_of_entry? {p : PlanUnit} (h : p.entry? i = some e) : e ∈ p.queue ∧ e.element = i :=
  ⟨List.mem_of_find?_eq_some h, by simpa using List.find?_some h⟩

theorem entry?_eq_none {p : PlanUnit} : p.entry? i = none ↔ ∀ x ∈ p.queue, x.element ≠ i := by
  simp [PlanUnit.entry?, List.find?_eq_none]

/-! ### Windows (R142) -/

theorem tget_onWindow (g : Window → Window) (ws : Vector (Option Window) 8) (k j : Nat) :
    tget (onWindow g ws k) j none = if j = k then (tget ws k none).map g else tget ws j none := by
  rw [onWindow, tget_tset]
  by_cases hj : j = k
  · subst hj
    by_cases h8 : j < 8
    · simp [h8]
    · simp [h8, tget_of_le ws (none : Option Window) (Nat.not_lt.1 h8)]
  · simp [hj, Ne.symm hj]

theorem isSome_onWindow (g : Window → Window) (ws : Vector (Option Window) 8) (k j : Nat) :
    (tget (onWindow g ws k) j none).isSome = (tget ws j none).isSome := by
  rw [tget_onWindow]
  split
  · rename_i h; rw [h, Option.isSome_map]
  · rfl

theorem isSome_refunded (e : PlanEntry) (ws : Vector (Option Window) 8) (j : Nat) :
    (tget (e.refunded ws) j none).isSome = (tget ws j none).isSome := by
  unfold PlanEntry.refunded
  split
  · exact isSome_onWindow _ _ _ _
  · rfl

theorem tget_zeroLoads (ws : Vector (Option Window) 8) (k : Nat) :
    tget (zeroLoads ws) k none = (tget ws k none).map fun w => { w with used := 0, pinnedLoad := 0 } :=
  tget_tmap_default _ _ _ _ rfl

/-! ### Loads -/

/-- What an entry takes of the capacity of a slot's window. -/
def PlanEntry.loadOn (k : Nat) (e : PlanEntry) : Nat := if e.window == some k then e.cost else 0

/-- What it takes by a pin. -/
def PlanEntry.pinOn (k : Nat) (e : PlanEntry) : Nat := if e.pinned then e.loadOn k else 0

def loadOf (k : Nat) (q : List PlanEntry) : Nat := (q.map (PlanEntry.loadOn k)).sum

def pinLoadOf (k : Nat) (q : List PlanEntry) : Nat := (q.map (PlanEntry.pinOn k)).sum

@[simp] theorem loadOf_cons : loadOf k (e :: q) = e.loadOn k + loadOf k q := by simp [loadOf]

@[simp] theorem pinLoadOf_cons : pinLoadOf k (e :: q) = e.pinOn k + pinLoadOf k q := by simp [pinLoadOf]

theorem loadOf_perm (h : q.Perm r) : loadOf k q = loadOf k r := (h.map _).sum_eq

theorem pinLoadOf_perm (h : q.Perm r) : pinLoadOf k q = pinLoadOf k r := (h.map _).sum_eq

theorem loadOn_same (h : e.window = some k) : e.loadOn k = e.cost := by simp [PlanEntry.loadOn, h]

theorem loadOn_other (h : e.window ≠ some k) : e.loadOn k = 0 := by simp [PlanEntry.loadOn, h]

theorem pinOn_le_loadOn (k : Nat) (e : PlanEntry) : e.pinOn k ≤ e.loadOn k := by
  unfold PlanEntry.pinOn
  split <;> omega

theorem pinOn_other (h : e.window ≠ some k) : e.pinOn k = 0 :=
  Nat.eq_zero_of_le_zero (loadOn_other h ▸ pinOn_le_loadOn k e)

theorem pinOn_pinned (h : e.pinned = true) : e.pinOn k = e.loadOn k := if_pos h

theorem pinOn_unpinned (h : e.pinned = false) : e.pinOn k = 0 := by simp [PlanEntry.pinOn, h]

theorem pinLoadOf_le_loadOf (k : Nat) (q : List PlanEntry) : pinLoadOf k q ≤ loadOf k q := by
  induction q with
  | nil => exact Nat.le_refl _
  | cons e q ih =>
    have := pinOn_le_loadOn k e
    rw [loadOf_cons, pinLoadOf_cons]
    omega

/-- Where every entry of a slot's window is pinned, its pinned load is its load. -/
theorem pinLoadOf_eq_loadOf (h : ∀ e ∈ q, e.window = some k → e.pinned = true) : pinLoadOf k q = loadOf k q := by
  induction q with
  | nil => rfl
  | cons e q ih =>
    rw [loadOf_cons, pinLoadOf_cons, ih fun x hx => h x (List.mem_cons_of_mem _ hx)]
    congr 1
    by_cases hw : e.window = some k
    · exact pinOn_pinned (h e List.mem_cons_self hw)
    · rw [loadOn_other hw, pinOn_other hw]

/-- The costs of some entries, summed over all of them. -/
theorem costSum_filter (f : PlanEntry → Bool) (q : List PlanEntry) :
    costSum (q.filter f) = (q.map fun e => if f e then e.cost else 0).sum := by
  induction q with
  | nil => rfl
  | cons e q ih =>
    rw [List.map_cons, List.sum_cons, ← ih]
    by_cases h : f e = true
    · rw [List.filter_cons_of_pos h, if_pos h, costSum, List.map_cons, List.sum_cons]
      rfl
    · rw [List.filter_cons_of_neg h, if_neg h, Nat.zero_add]

theorem costSum_inWindow (p : PlanUnit) (k : Nat) : costSum (p.inWindow k) = loadOf k p.queue :=
  costSum_filter _ _

theorem costSum_inWindow_pinned (p : PlanUnit) (k : Nat) :
    costSum ((p.inWindow k).filter PlanEntry.pinned) = pinLoadOf k p.queue := by
  rw [PlanUnit.inWindow, List.filter_filter, costSum_filter, pinLoadOf]
  congr 2
  funext e
  cases hp : e.pinned <;> simp [PlanEntry.pinOn, PlanEntry.loadOn, hp]

end Sys2Proof.Machine
end

section
/-! The plan's laws (R142, R146) in a form into which the queue's order does not enter, and what keeps them: an entry
that leaves, joins, charges a window, or changes what no law reads; a window that is freed. -/

namespace Sys2Proof.Machine

variable {es es' : Vector Element 240} {ws : Vector (Option Window) 8} {q r : List PlanEntry} {e : PlanEntry}
  {i j k : Nat} {w : Window}

/-- What the plan knows of an element: its service cost, if it is assigned, and its generation. -/
def Element.costed (e : Element) : Option Nat × BitVec 16 := (e.fitting?.map fun f => f.settings.cost, e.generation)

/-- The entry names an assigned element with its current generation and cost. -/
def PlanEntry.names (es : Vector Element 240) (e : PlanEntry) : Prop :=
  (tget es e.element .vacant).costed = (some e.cost, e.generation)

/-- An entry's window exists, a pin has a window, and an unplaced entry has none. -/
def PlanEntry.sited (ws : Vector (Option Window) 8) (e : PlanEntry) : Prop :=
  (∀ k, e.window = some k → (tget ws k none).isSome) ∧
  (e.pinned = true → e.window ≠ none) ∧ (e.unplaced = true → e.window = none)

/-- A slot's window carries the costs of its entries, within its capacity. -/
def Window.carries (k : Nat) (q : List PlanEntry) (w : Window) : Prop :=
  w.used = loadOf k q ∧ w.pinnedLoad = pinLoadOf k q ∧ w.used ≤ w.capacity

/-- The laws of R142 and R146 over the element table `es`. -/
structure PlanSound (es : Vector Element 240) (p : PlanUnit) : Prop where
  length : p.queue.length ≤ 64
  nodup : (p.queue.map PlanEntry.element).Nodup
  sited : ∀ e ∈ p.queue, e.sited p.windows
  loads : ∀ k w, tget p.windows k none = some w → w.carries k p.queue
  names : ∀ e ∈ p.queue, e.names es

theorem names_iff (s : State) (e : PlanEntry) :
    e.names s.elements ↔
      ∃ f, s.fitting? e.element = some f ∧ f.settings.cost = e.cost ∧
        (s.element e.element).generation = e.generation := by
  simp only [PlanEntry.names, Element.costed, Prod.mk.injEq, Option.map_eq_some_iff, State.fitting?, State.element]
  exact ⟨fun ⟨⟨f, hf, hc⟩, hg⟩ => ⟨f, hf, hc, hg⟩, fun ⟨f, hf, hc, hg⟩ => ⟨⟨f, hf, hc⟩, hg⟩⟩

theorem planLawful_iff_sound (s : State) : s.planLawful ↔ PlanSound s.elements s.plan := by
  simp only [State.planLawful, PlanUnit.queueLawful, PlanUnit.loadsLawful, costSum_inWindow, costSum_inWindow_pinned,
    ← names_iff, ← Option.isSome_iff_exists]
  exact ⟨fun ⟨⟨hl, hn, hs⟩, hw, he⟩ => ⟨hl, hn, hs, hw, he⟩, fun ⟨hl, hn, hs, hw, he⟩ => ⟨⟨hl, hn, hs⟩, hw, he⟩⟩

/-! ### What the laws read -/

theorem costed_of_fitting {s : State} {f : Fitting} (hf : s.fitting? i = some f) :
    (s.element i).costed = (some f.settings.cost, (s.element i).generation) := by
  rw [Element.costed, show (s.element i).fitting? = some f from hf]
  rfl

theorem sited_congr {ws' : Vector (Option Window) 8} (h : ∀ j, (tget ws' j none).isSome = (tget ws j none).isSome)
    (he : e.sited ws) : e.sited ws' :=
  ⟨fun k hk => (h k).trans (he.1 k hk), he.2⟩

/-- An entry without a window has neither pin nor place. -/
theorem sited_free (hw : e.window = none) (hp : e.pinned = false) : e.sited ws :=
  ⟨fun _ hk => (nomatch hw.symm.trans hk), fun h => (nomatch hp.symm.trans h), fun _ => hw⟩

theorem offWindow_sited (e : PlanEntry) (ws : Vector (Option Window) 8) : e.offWindow.sited ws := sited_free rfl rfl

/-- The loads of a slot's window depend on its own entries alone. -/
theorem carries_of_other (h : w.carries j q) (he : e.window ≠ some j) : w.carries j (e :: q) := by
  obtain ⟨hu, hp, hc⟩ := h
  exact ⟨by rw [loadOf_cons, loadOn_other he, hu, Nat.zero_add],
    by rw [pinLoadOf_cons, pinOn_other he, hp, Nat.zero_add], hc⟩

theorem carries_tail (h : w.carries j (e :: q)) (he : e.window ≠ some j) : w.carries j q := by
  obtain ⟨hu, hp, hc⟩ := h
  rw [loadOf_cons, loadOn_other he, Nat.zero_add] at hu
  rw [pinLoadOf_cons, pinOn_other he, Nat.zero_add] at hp
  exact ⟨hu, hp, hc⟩

/-- The loads of all windows where one is changed for a changed queue. -/
theorem loads_onWindow {g : Window → Window}
    (h : ∀ j w, j ≠ k → tget ws j none = some w → w.carries j q)
    (hk : ∀ w, tget ws k none = some w → (g w).carries k q) (j : Nat) (w : Window)
    (hw : tget (onWindow g ws k) j none = some w) : w.carries j q := by
  rw [tget_onWindow] at hw
  split at hw
  · rename_i hj
    obtain ⟨v, hv, rfl⟩ := Option.map_eq_some_iff.1 hw
    exact hj ▸ hk v hv
  · rename_i hj
    exact h j w hj hw

namespace PlanSound

/-- The order of the queue is no matter. -/
theorem perm (h : PlanSound es ⟨ws, q⟩) (hp : q.Perm r) : PlanSound es ⟨ws, r⟩ where
  length := hp.length_eq ▸ h.length
  nodup := (hp.map _).nodup_iff.1 h.nodup
  sited e he := h.sited e (hp.mem_iff.2 he)
  loads k w hw := by
    have := h.loads k w hw
    simpa only [Window.carries, loadOf_perm hp, pinLoadOf_perm hp] using this
  names e he := h.names e (hp.mem_iff.2 he)

/-- Of the element table the laws read the entries' own elements. -/
theorem table (h : PlanSound es ⟨ws, q⟩)
    (he : ∀ e ∈ q, (tget es' e.element .vacant).costed = (tget es e.element .vacant).costed) :
    PlanSound es' ⟨ws, q⟩ :=
  { h with names := fun e hq => (he e hq).trans (h.names e hq) }

/-! ### One entry -/

theorem head_fresh (h : PlanSound es ⟨ws, e :: q⟩) : ∀ x ∈ q, x.element ≠ e.element := fun _ hx hxe =>
  (List.nodup_cons.1 h.nodup).1 (hxe ▸ List.mem_map_of_mem hx)

theorem room (h : PlanSound es ⟨ws, e :: q⟩) : q.length < 64 := h.length

/-- An entry leaves, its cost returned. -/
theorem removed (h : PlanSound es ⟨ws, e :: q⟩) : PlanSound es ⟨e.refunded ws, q⟩ where
  length := Nat.le_of_lt h.room
  nodup := (List.nodup_cons.1 h.nodup).2
  sited x hx := sited_congr (isSome_refunded e ws) (h.sited x (List.mem_cons_of_mem _ hx))
  loads := by
    unfold PlanEntry.refunded
    split
    · rename_i k hk
      refine loads_onWindow (fun j w hj hw => carries_tail (h.loads j w hw) (by simp [hk, Ne.symm hj])) fun w hw => ?_
      obtain ⟨hu, hp, hc⟩ := h.loads k w hw
      rw [loadOf_cons, loadOn_same hk] at hu
      rw [pinLoadOf_cons] at hp
      refine ⟨by simp only [Window.refund, hu]; omega, ?_, Nat.le_trans (Nat.sub_le _ _) hc⟩
      cases hpin : e.pinned
      · rw [pinOn_unpinned hpin, Nat.zero_add] at hp
        exact hp
      · rw [pinOn_pinned hpin, loadOn_same hk] at hp
        simp only [Window.refund, hp, if_true]
        omega
    · rename_i hk
      exact fun j w hw => carries_tail (h.loads j w hw) (by simp [hk])
  names x hx := h.names x (List.mem_cons_of_mem _ hx)

/-- An entry without a window joins. -/
theorem added (h : PlanSound es ⟨ws, q⟩) (hw : e.window = none) (hp : e.pinned = false) (hl : q.length < 64)
    (hf : ∀ x ∈ q, x.element ≠ e.element) (hn : e.names es) : PlanSound es ⟨ws, e :: q⟩ where
  length := hl
  nodup := List.nodup_cons.2 ⟨by simpa using hf, h.nodup⟩
  sited := List.forall_mem_cons.2 ⟨sited_free hw hp, h.sited⟩
  loads j w' hw' := carries_of_other (h.loads j w' hw') (by simp [hw])
  names := List.forall_mem_cons.2 ⟨hn, h.names⟩

/-- An entry joins and charges a window that has room for it. -/
theorem charged (h : PlanSound es ⟨ws, q⟩) (hk : e.window = some k) (hu : e.unplaced = false)
    (hw : tget ws k none = some w) (hr : e.cost ≤ w.remaining) (hl : q.length < 64)
    (hf : ∀ x ∈ q, x.element ≠ e.element) (hn : e.names es) :
    PlanSound es ⟨onWindow (Window.charge e.cost e.pinned) ws k, e :: q⟩ where
  length := hl
  nodup := List.nodup_cons.2 ⟨by simpa using hf, h.nodup⟩
  sited := by
    refine List.forall_mem_cons.2 ⟨⟨fun k' hk' => ?_, fun _ => by simp [hk], fun hu' => ?_⟩,
      fun x hx => sited_congr (isSome_onWindow _ ws k) (h.sited x hx)⟩
    · rw [hk, Option.some.injEq] at hk'
      rw [isSome_onWindow, ← hk', hw]
      rfl
    · exact nomatch hu.symm.trans hu'
  loads := by
    refine loads_onWindow (fun j v hj hv => carries_of_other (h.loads j v hv) (by simp [hk, Ne.symm hj]))
      fun v hv => ?_
    obtain rfl : w = v := Option.some.inj (hw.symm.trans hv)
    obtain ⟨hused, hpin, hc⟩ := h.loads k w hw
    refine ⟨?_, ?_, ?_⟩
    · rw [loadOf_cons, loadOn_same hk, ← hused]
      exact Nat.add_comm _ _
    · rw [pinLoadOf_cons, ← hpin, PlanEntry.pinOn, loadOn_same hk]
      simp only [Window.charge]
      split <;> omega
    · simp only [Window.remaining] at hr
      simp only [Window.charge]
      omega
  names := List.forall_mem_cons.2 ⟨hn, h.names⟩

/-- A pin is taken off, its load returned; the entry keeps its window. -/
theorem unpinned (h : PlanSound es ⟨ws, e :: q⟩) (hp : e.pinned = true) (hk : e.window = some k) :
    PlanSound es ⟨onWindow (fun w => { w with pinnedLoad := w.pinnedLoad - e.cost }) ws k,
      { e with pinned := false } :: q⟩ where
  length := h.length
  nodup := h.nodup
  sited := by
    obtain ⟨he, hq⟩ := List.forall_mem_cons.1 h.sited
    refine List.forall_mem_cons.2 ⟨sited_congr (isSome_onWindow _ ws k) ⟨he.1, (nomatch ·), he.2.2⟩, ?_⟩
    exact fun x hx => sited_congr (isSome_onWindow _ ws k) (hq x hx)
  loads := by
    refine loads_onWindow (fun j w hj hw => ?_) fun w hw => ?_
    · have hj' : e.window ≠ some j := by simp [hk, Ne.symm hj]
      exact carries_of_other (carries_tail (h.loads j w hw) hj') hj'
    · obtain ⟨hu, hpin, hc⟩ := h.loads k w hw
      rw [pinLoadOf_cons, pinOn_pinned hp, loadOn_same hk] at hpin
      refine ⟨by rw [hu, loadOf_cons, loadOf_cons]; rfl, ?_, hc⟩
      rw [pinLoadOf_cons, pinOn_unpinned rfl]
      simp only [hpin]
      omega
  names := List.forall_mem_cons.2 ⟨h.names e List.mem_cons_self, fun x hx => h.names x (List.mem_cons_of_mem _ hx)⟩

/-- An entry changes in what no law reads. -/
theorem updated {e' : PlanEntry} (h : PlanSound es ⟨ws, e :: q⟩) (hel : e'.element = e.element)
    (hg : e'.generation = e.generation) (hw : e'.window = e.window) (hp : e'.pinned = e.pinned)
    (hu : e'.unplaced = e.unplaced) (hc : e'.cost = e.cost) : PlanSound es ⟨ws, e' :: q⟩ where
  length := h.length
  nodup := by
    have := h.nodup
    rwa [List.map_cons, ← hel] at this
  sited := by
    obtain ⟨he, hq⟩ := List.forall_mem_cons.1 h.sited
    refine List.forall_mem_cons.2 ⟨?_, hq⟩
    rw [PlanEntry.sited, hw, hp, hu]
    exact he
  loads k w hwk := by
    have := h.loads k w hwk
    simpa only [Window.carries, loadOf_cons, pinLoadOf_cons, PlanEntry.pinOn, PlanEntry.loadOn, hw, hp, hc] using this
  names := by
    obtain ⟨he, hq⟩ := List.forall_mem_cons.1 h.names
    refine List.forall_mem_cons.2 ⟨?_, hq⟩
    rw [PlanEntry.names, hel, hg, hc]
    exact he

/-! ### Windows -/

/-- Windows are freed, and their entries lose window and pin. -/
theorem freed {ws' : Vector (Option Window) 8} {gone : PlanEntry → Bool} (h : PlanSound es ⟨ws, q⟩)
    (hw : ∀ k w, tget ws' k none = some w → tget ws k none = some w ∧
      ∀ e ∈ q, e.window = some k → gone e = false)
    (he : ∀ e ∈ q, gone e = false → ∀ k, e.window = some k → (tget ws' k none).isSome) :
    PlanSound es ⟨ws', q.map fun e => if gone e then e.offWindow else e⟩ where
  length := by
    rw [List.length_map]
    exact h.length
  nodup := by
    rw [List.map_map, List.map_congr_left (g := PlanEntry.element)]
    · exact h.nodup
    · intro e _
      by_cases hg : gone e <;> simp [hg, PlanEntry.offWindow]
  sited := by
    rw [List.forall_mem_map]
    intro e hq
    split
    · exact offWindow_sited e ws'
    · rename_i hg
      exact ⟨he e hq (by simpa using hg), (h.sited e hq).2⟩
  loads k w hk := by
    obtain ⟨hk', hstay⟩ := hw k w hk
    obtain ⟨hu, hp, hc⟩ := h.loads k w hk'
    have same : ∀ e ∈ q, (if gone e then e.offWindow else e).loadOn k = e.loadOn k ∧
        (if gone e then e.offWindow else e).pinOn k = e.pinOn k := by
      intro e hq
      split
      · rename_i hg
        have hne : e.window ≠ some k := fun hek => by rw [hstay e hq hek] at hg; cases hg
        exact ⟨(loadOn_other (by simp [PlanEntry.offWindow])).trans (loadOn_other hne).symm,
          (pinOn_other (by simp [PlanEntry.offWindow])).trans (pinOn_other hne).symm⟩
      · exact ⟨rfl, rfl⟩
    refine ⟨hu.trans ?_, hp.trans ?_, hc⟩
    · rw [loadOf, loadOf, List.map_map]
      exact congrArg _ (List.map_congr_left fun e hq => (same e hq).1.symm)
    · rw [pinLoadOf, pinLoadOf, List.map_map]
      exact congrArg _ (List.map_congr_left fun e hq => (same e hq).2.symm)
  names := by
    rw [List.forall_mem_map]
    intro e hq
    split
    · exact h.names e hq
    · exact h.names e hq

/-- With no entries every window carries nothing. -/
theorem empty (es : Vector Element 240) (ws : Vector (Option Window) 8) : PlanSound es ⟨zeroLoads ws, []⟩ where
  length := Nat.zero_le _
  nodup := List.nodup_nil
  sited _ he := nomatch he
  loads k w hw := by
    rw [tget_zeroLoads] at hw
    obtain ⟨v, -, rfl⟩ := Option.map_eq_some_iff.1 hw
    exact ⟨rfl, rfl, Nat.zero_le _⟩
  names _ he := nomatch he

end PlanSound

end Sys2Proof.Machine
end

section
/-! What keeps the plan's laws, of the plan unit's own operations: the notices of the element table, the windows'
requests and their end, the minute tick (R143 to R145, R154 to R157). -/

namespace Sys2Proof.Machine

variable {es es' : Vector Element 240} {ws : Vector (Option Window) 8} {q r : List PlanEntry} {e : PlanEntry}
  {i j k c cost : Nat} {w : Window} {p : PlanUnit}

theorem refunded_of_window (h : e.window = some k) (ws : Vector (Option Window) 8) :
    e.refunded ws = onWindow (Window.refund e.cost e.pinned) ws k := by rw [PlanEntry.refunded, h]

theorem refunded_of_none (h : e.window = none) (ws : Vector (Option Window) 8) : e.refunded ws = ws := by
  rw [PlanEntry.refunded, h]

theorem insert_perm (c : Nat) (p : PlanUnit) (e : PlanEntry) : (p.insert c e).queue.Perm (e :: p.queue) :=
  (insertEntry_perm c e _).trans ((orderEntries_perm c p.queue).cons e)

theorem loadOf_eq_zero (h : ∀ e ∈ q, e.window ≠ some k) : loadOf k q = 0 :=
  List.sum_eq_zero fun n hn => by
    obtain ⟨e, he, rfl⟩ := List.mem_map.1 hn
    exact loadOn_other (h e he)

theorem window_dropEnded (p : PlanUnit) (c k : Nat) :
    (p.dropEnded c).window k = (p.window k).filter fun w => !w.ended c := by
  rw [PlanUnit.window, PlanUnit.dropEnded, tget_tmap_default _ _ _ _ rfl, ← PlanUnit.window]
  cases p.window k with
  | none => rfl
  | some w => cases hw : w.ended c <;> simp [Option.filter, hw]

namespace PlanSound

/-- The plan with one entry set before the others. -/
theorem split (h : PlanSound es p) (he : e ∈ p.queue) :
    ∃ r, p.queue.Perm (e :: r) ∧ (∀ x ∈ r, x.element ≠ e.element) ∧ PlanSound es ⟨p.windows, e :: r⟩ := by
  obtain ⟨r, hr, hne⟩ := perm_cons_of_mem h.nodup he
  exact ⟨r, hr, hne, h.perm hr⟩

theorem unpinned_of_free (h : PlanSound es p) (he : e ∈ p.queue) (hw : e.window = none) : e.pinned = false :=
  Bool.eq_false_iff.2 fun hp => (h.sited e he).2.1 hp hw

theorem placed_of_window (h : PlanSound es p) (he : e ∈ p.queue) (hw : e.window = some k) : e.unplaced = false :=
  Bool.eq_false_iff.2 fun hu => nomatch ((h.sited e he).2.2 hu).symm.trans hw

theorem window_exists (h : PlanSound es p) (he : e ∈ p.queue) (hw : e.window = some k) :
    ∃ w, p.window k = some w := Option.isSome_iff_exists.1 ((h.sited e he).1 k hw)

theorem reorder (h : PlanSound es p) (c : Nat) : PlanSound es (p.reorder c) :=
  h.perm (orderEntries_perm c p.queue).symm

/-- An element's entry is changed where it stands. -/
theorem of_update {g : PlanEntry → PlanEntry} (hr : p.queue.Perm (e :: r)) (hne : ∀ x ∈ r, x.element ≠ e.element)
    (h : PlanSound es ⟨ws, g e :: r⟩) : PlanSound es ⟨ws, (p.update e.element g).queue⟩ :=
  h.perm (update_perm hr hne g).symm

/-! ### Notices (R154 to R157) -/

theorem remove (h : PlanSound es p) (he : e ∈ p.queue) :
    PlanSound es (p.remove e) ∧ (p.remove e).queue.length < 64 ∧
      ∀ x ∈ (p.remove e).queue, x ∈ p.queue ∧ x.element ≠ e.element := by
  obtain ⟨r, hr, hne, hs⟩ := h.split he
  have hq : (p.remove e).queue.Perm r := filter_perm hr hne
  refine ⟨hs.removed.perm hq.symm, hq.length_eq ▸ hs.room, fun x hx => ?_⟩
  obtain ⟨hx, hxe⟩ := List.mem_filter.1 hx
  exact ⟨hx, bne_iff_ne.1 hxe⟩

theorem insert (h : PlanSound es p) (hw : e.window = none) (hp : e.pinned = false) (hl : p.queue.length < 64)
    (hf : ∀ x ∈ p.queue, x.element ≠ e.element) (hn : e.names es) (c : Nat) : PlanSound es (p.insert c e) :=
  (h.added (ws := p.windows) hw hp hl hf hn).perm (insert_perm c p e).symm

theorem lastUnpinned?_mem (h : p.lastUnpinned? c = some e) : e ∈ p.queue ∧ e.pinned = false :=
  ⟨(orderEntries_perm c p.queue).mem_iff.1 (List.mem_reverse.1 (List.mem_of_find?_eq_some h)),
    by simpa using List.find?_some h⟩

theorem addNew (h : PlanSound es p) (hw : e.window = none) (hp : e.pinned = false)
    (hf : ∀ x ∈ p.queue, x.element ≠ e.element) (hn : e.names es) (c : Nat) : PlanSound es (p.addNew c e).1 := by
  unfold PlanUnit.addNew
  split
  · rename_i hl
    exact h.insert hw hp hl hf hn c
  · split
    · rename_i last hlast
      obtain ⟨hs, hl, hmem⟩ := h.remove (lastUnpinned?_mem hlast).1
      split
      · exact hs.insert hw hp hl (fun x hx => hf x (hmem x hx).1) hn c
      · exact h
    · exact h

/-- A milestone notice gives the element's current generation and cost. -/
theorem milestoneNotice (h : PlanSound es p) {n : MilestoneNotice}
    (hn : (tget es n.element .vacant).costed = (some n.cost, n.generation)) (clock : Option Nat) :
    PlanSound es (p.milestoneNotice clock n).1 := by
  unfold PlanUnit.milestoneNotice
  split
  · rename_i c
    split
    · rename_i e he
      obtain ⟨hmem, hel⟩ := mem_of_entry? he
      obtain ⟨r, hr, hne, hs⟩ := h.split hmem
      have hgen : n.generation = e.generation := by
        have hnames := h.names e hmem
        rw [PlanEntry.names, hel, hn] at hnames
        exact (Prod.mk.inj hnames).2
      rw [← hel]
      exact (of_update (p := p) hr hne (hs.updated rfl hgen rfl rfl rfl rfl)).reorder c
    · rename_i he
      exact h.addNew (e := n.entry) rfl rfl (entry?_eq_none.1 he) hn c
  · exact h

theorem projectionNotice (h : PlanSound es p) (clock : Option Nat) (i : Nat) (due : Projection) :
    PlanSound es (p.projectionNotice clock i due) := by
  unfold PlanUnit.projectionNotice
  split
  · rename_i c e he
    obtain ⟨hmem, hel⟩ := mem_of_entry? he
    obtain ⟨r, hr, hne, hs⟩ := h.split hmem
    rw [← hel]
    exact (of_update (p := p) hr hne (hs.updated rfl rfl rfl rfl rfl rfl)).reorder c
  · exact h
  · exact h

/-- A removed element has no entry left. -/
theorem removalNotice (h : PlanSound es p) (i : Nat) :
    PlanSound es (p.removalNotice i).1 ∧ ∀ x ∈ (p.removalNotice i).1.queue, x.element ≠ i := by
  unfold PlanUnit.removalNotice
  split
  · rename_i e he
    obtain ⟨hmem, hel⟩ := mem_of_entry? he
    obtain ⟨hs, -, hne⟩ := h.remove hmem
    exact ⟨hs, fun x hx => hel ▸ (hne x hx).2⟩
  · rename_i he
    exact ⟨h, entry?_eq_none.1 he⟩

/-- The cost of an element's entry stays the element's: in its window where it fits, and off it where it does not. -/
theorem costNotice (h : PlanSound es p)
    (ho : ∀ j, j ≠ i → (tget es' j .vacant).costed = (tget es j .vacant).costed)
    (hi : (tget es' i .vacant).costed = (some cost, (tget es i .vacant).generation)) :
    PlanSound es' (p.costNotice i cost).1 := by
  unfold PlanUnit.costNotice
  split
  · rename_i e he
    obtain ⟨hmem, hel⟩ := mem_of_entry? he
    obtain ⟨r, hr, hne, hs⟩ := h.split hmem
    have hleft : PlanSound es' ⟨e.refunded p.windows, r⟩ := hs.removed.table fun x hx => ho _ (hel ▸ hne x hx)
    have hnames : (tget es' e.element .vacant).costed = (some cost, e.generation) := by
      rw [hel, hi, ← hel]
      exact congrArg (Prod.mk _) (Prod.mk.inj (h.names e hmem)).2
    subst hel
    split
    · rename_i k hk
      obtain ⟨w, hw⟩ := h.window_exists hmem hk
      split
      · rename_i hfit
        have hw' : tget (e.refunded p.windows) k none = some (w.refund e.cost e.pinned) := by
          rw [refunded_of_window hk, tget_onWindow, if_pos rfl, show tget p.windows k none = some w from hw]
          rfl
        have hroom : cost ≤ (w.refund e.cost e.pinned).remaining := by
          simp only [PlanUnit.fitsWith, hw, decide_eq_true_eq] at hfit
          simp only [Window.remaining, Window.refund]
          omega
        have hu : e.unplaced = false := h.placed_of_window hmem hk
        exact of_update hr hne
          (hleft.charged (e := { e with cost := cost }) hk hu hw' hroom hs.room hne hnames)
      · exact of_update hr hne
          (hleft.added (e := { e.offWindow with unplaced := true, cost := cost }) rfl rfl hs.room hne hnames)
    · rename_i hk
      rw [refunded_of_none hk] at hleft
      have hp : e.pinned = false := h.unpinned_of_free hmem hk
      exact of_update hr hne (hleft.added (e := { e with cost := cost }) hk hp hs.room hne hnames)
  · rename_i he
    exact h.table fun x hx => ho _ (entry?_eq_none.1 he x hx)

/-! ### Windows (R143 to R145) -/

/-- A window in a free slot has no entries. -/
theorem addWindow (h : PlanSound es p) (hk : p.window k = none) (start length capacity : Nat) :
    PlanSound es { p with windows := tset p.windows k (some ⟨start, length, capacity, 0, 0⟩) } := by
  have hfree : ∀ e ∈ p.queue, e.window ≠ some k := fun e he hek => by
    obtain ⟨w, hw⟩ := h.window_exists he hek
    exact nomatch hk.symm.trans hw
  refine { h with sited := fun e he => ⟨fun j hj => ?_, (h.sited e he).2⟩, loads := fun j w hw => ?_ }
  · rw [tget_tset]
    split
    · rfl
    · exact (h.sited e he).1 j hj
  · rw [tget_tset] at hw
    split at hw
    · rename_i hj
      obtain rfl := Option.some.inj hw
      obtain ⟨rfl, -⟩ := hj
      have hload := loadOf_eq_zero hfree
      exact ⟨hload.symm, (Nat.eq_zero_of_le_zero (hload ▸ pinLoadOf_le_loadOf k p.queue)).symm, Nat.zero_le _⟩
    · exact h.loads j w hw

theorem removeWindow (h : PlanSound es p) (hk : k < 8) : PlanSound es (p.removeWindow k) := by
  refine h.freed (ws := p.windows) (gone := fun e => e.window == some k) (fun j w hj => ?_) (fun e he hgone j hj => ?_)
  · rw [tget_tset] at hj
    split at hj
    · cases hj
    · rename_i hne
      refine ⟨hj, fun e _ hej => ?_⟩
      rw [hej, beq_eq_false_iff_ne]
      exact fun heq => hne ⟨(Option.some.inj heq).symm, hk⟩
  · rw [tget_tset, if_neg]
    · exact (h.sited e he).1 j hj
    · rintro ⟨rfl, -⟩
      rw [hj, beq_self_eq_true] at hgone
      cases hgone

theorem dropEnded (h : PlanSound es p) (c : Nat) : PlanSound es (p.dropEnded c) := by
  refine h.freed (ws := p.windows) (gone := p.inEnded c) (fun k w hk => ?_) (fun e he hstay k hk => ?_)
  · obtain ⟨hw, hend⟩ := Option.filter_eq_some_iff.1 ((window_dropEnded p c k).symm.trans hk)
    exact ⟨hw, fun e _ hek => by simpa only [PlanUnit.inEnded, hek, hw, Bool.not_eq_true'] using hend⟩
  · obtain ⟨w, hw⟩ := h.window_exists he hk
    simp only [PlanUnit.inEnded, hk, hw] at hstay
    refine Option.isSome_iff_exists.2 ⟨w, (window_dropEnded p c k).trans (Option.filter_eq_some_iff.2 ⟨hw, ?_⟩)⟩
    rw [hstay]
    rfl

theorem tick (h : PlanSound es p) (carried : Option Nat) : PlanSound es (p.tick carried).1 := by
  cases carried with
  | none => exact empty es p.windows
  | some c => exact (h.dropEnded c).reorder c

end PlanSound

end Sys2Proof.Machine
end

section
/-! A replan keeps the plan's laws: what the candidates are, that the pins kept are charged within their windows, and
that placement and companions charge a window only where it has room (R149 to R152). -/

namespace Sys2Proof.Machine

variable {es : Vector Element 240} {ws : Vector (Option Window) 8} {q r old : List PlanEntry} {e : PlanEntry}
  {i j k c horizon percent cost : Nat} {w : Window} {p : PlanUnit}

/-! ### Candidates (R149, R150) -/

/-- What a replan begins with: an entry that names its element, with no window unless a pin of the old queue gives it
one. -/
structure PlanEntry.Begins (es : Vector Element 240) (old : List PlanEntry) (e : PlanEntry) : Prop where
  names : e.names es
  placed : e.unplaced = false
  free : e.pinned = false → e.window = none
  pin : e.pinned = true → ∃ o ∈ old, o.pinned = true ∧ o.element = e.element ∧ o.window = e.window

theorem candidate_begins {x : Element × Nat} {top : Nat} (hx : tget es x.2 .vacant = x.1)
    (h : candidate top old x = some e) : e.element = x.2 ∧ e.Begins es old := by
  unfold candidate at h
  split at h
  · rename_i f hf
    obtain ⟨reason, -, rfl⟩ := Option.map_eq_some_iff.1 h
    have hfit : x.1.fitting? = some f := by rw [Element.fitting?, hf]
    refine ⟨rfl, ?_, rfl, fun hp => ?_, fun hp => ?_⟩
    · rw [PlanEntry.names, hx, Element.costed, hfit]
      rfl
    · rw [Option.isSome_eq_false_iff, Option.isNone_iff_eq_none] at hp
      rw [hp]
      rfl
    · obtain ⟨o, ho⟩ := Option.isSome_iff_exists.1 hp
      have := List.find?_some ho
      rw [Bool.and_eq_true, beq_iff_eq] at this
      exact ⟨o, List.mem_of_find?_eq_some ho, this.1, this.2, by rw [ho]; rfl⟩
  · cases h
  · cases h

theorem candidates_begin (he : e ∈ candidates c horizon es old) : e.Begins es old := by
  obtain ⟨x, hx, hc⟩ := List.mem_filterMap.1 ((orderEntries_perm _ _).mem_iff.1 he)
  exact (candidate_begins ((mem_tenum .vacant).1 hx).2 hc).2

/-- The elements of the entries that some places of a table give stand in the table's order. -/
theorem filterMap_elements_sublist {g : Element × Nat → Option PlanEntry} :
    ∀ l : List (Element × Nat), (∀ x ∈ l, ∀ e, g x = some e → e.element = x.2) →
      ((l.filterMap g).map PlanEntry.element).Sublist (l.map Prod.snd)
  | [], _ => .refl _
  | x :: l, h => by
    have ih := filterMap_elements_sublist l fun y hy => h y (List.mem_cons_of_mem _ hy)
    rw [List.filterMap_cons]
    split
    · exact ih.cons _
    · rename_i e he
      rw [List.map_cons, List.map_cons, h x List.mem_cons_self e he]
      exact ih.cons_cons _

theorem candidates_nodup (c horizon : Nat) (es : Vector Element 240) (old : List PlanEntry) :
    ((candidates c horizon es old).map PlanEntry.element).Nodup := by
  refine ((orderEntries_perm _ _).map _).nodup_iff.2 (List.Nodup.sublist (filterMap_elements_sublist _ ?_) ?_)
  · exact fun x hx e he => (candidate_begins ((mem_tenum .vacant).1 hx).2 he).1
  · rw [tenum_map_snd]
    exact List.nodup_range

/-- The kept candidates with the cut ones beside them are the candidates. -/
theorem keptOf_append_cutOf_perm (cs : List PlanEntry) : (keptOf cs ++ cutOf cs).Perm cs := by
  rw [keptOf, cutOf, List.append_assoc, List.take_append_drop]
  exact List.filter_append_perm _ cs

theorem keptOf_length {cs : List PlanEntry} (h : (cs.filter PlanEntry.pinned).length ≤ 64) :
    (keptOf cs).length ≤ 64 := by
  rw [keptOf, List.length_append, List.length_take]
  have : queueLimit = 64 := rfl
  omega

/-! ### Pins (R151) -/

theorem chargePins_pinned (hp : e.pinned = true) (hw : e.window = some k) (q : List PlanEntry)
    (ws : Vector (Option Window) 8) :
    chargePins (e :: q) ws = chargePins q (onWindow (Window.charge e.cost true) ws k) := by
  rw [chargePins, List.foldl_cons, hp, hw]
  rfl

theorem chargePins_other (h : e.pinned = false ∨ e.window = none) (q : List PlanEntry)
    (ws : Vector (Option Window) 8) : chargePins (e :: q) ws = chargePins q ws := by
  rw [chargePins, List.foldl_cons]
  rcases h with h | h
  · rw [h]
    rfl
  · rw [h]
    cases e.pinned <;> rfl

/-- The pins of a queue together charge each slot's window with their load on it. -/
theorem tget_chargePins (k : Nat) (q : List PlanEntry) (ws : Vector (Option Window) 8) :
    tget (chargePins q ws) k none = (tget ws k none).map fun w =>
      { w with used := w.used + pinLoadOf k q, pinnedLoad := w.pinnedLoad + pinLoadOf k q } := by
  induction q generalizing ws with
  | nil => exact (Option.map_id' (x := tget ws k none)).symm
  | cons e q ih =>
    by_cases h : e.pinned = false ∨ e.window = none
    · have he : e.pinOn k = 0 := h.elim pinOn_unpinned fun hw => pinOn_other (by simp [hw])
      rw [chargePins_other h, ih, pinLoadOf_cons, he, Nat.zero_add]
    · obtain ⟨hp, hw⟩ := not_or.1 h
      rw [Bool.not_eq_false] at hp
      obtain ⟨j, hj⟩ := Option.ne_none_iff_exists'.1 hw
      rw [chargePins_pinned hp hj, ih, tget_onWindow, pinLoadOf_cons, pinOn_pinned hp]
      split
      · rename_i hk
        subst hk
        rw [loadOn_same hj, Option.map_map]
        congr 1
        funext w
        simp [Window.charge, Nat.add_assoc]
      · rename_i hk
        rw [loadOn_other (by simp [hj, Ne.symm hk]), Nat.zero_add]

theorem sum_snd_le_of_subperm {l l' : List (Nat × Nat)} (h : List.Subperm l l') :
    (l.map Prod.snd).sum ≤ (l'.map Prod.snd).sum := by
  obtain ⟨m, hm, hs⟩ := h
  rw [← (hm.map Prod.snd).sum_eq]
  exact (hs.map Prod.snd).sum_le_sum fun _ _ => Nat.zero_le _

theorem pinLoadOf_filter (k : Nat) (q : List PlanEntry) : pinLoadOf k (q.filter PlanEntry.pinned) = pinLoadOf k q := by
  induction q with
  | nil => rfl
  | cons e q ih =>
    cases hp : e.pinned
    · rw [List.filter_cons_of_neg (by simp [hp]), ih, pinLoadOf_cons, pinOn_unpinned hp, Nat.zero_add]
    · rw [List.filter_cons_of_pos hp, pinLoadOf_cons, pinLoadOf_cons, ih]

/-- The pins that a replan begins with are pins of the old queue. -/
theorem pins_subperm (h : PlanSound es ⟨ws, old⟩) (hq : ∀ e ∈ q, e.Begins es old)
    (hn : (q.map PlanEntry.element).Nodup) (k : Nat) :
    List.Subperm ((q.filter PlanEntry.pinned).map fun e => (e.element, e.pinOn k))
      (old.map fun e => (e.element, e.pinOn k)) := by
  refine List.subperm_of_subset (.of_map Prod.fst ?_) fun x hx => ?_
  · rw [List.map_map]
    exact hn.sublist (List.filter_sublist.map _)
  · obtain ⟨e, he, rfl⟩ := List.mem_map.1 hx
    obtain ⟨heq, hep⟩ := List.mem_filter.1 he
    obtain ⟨o, ho, hop, hoe, how⟩ := (hq e heq).pin hep
    have hcost : o.cost = e.cost := by
      have hnames := (hq e heq).names
      rw [PlanEntry.names, ← hoe, h.names o ho] at hnames
      exact Option.some.inj (Prod.mk.inj hnames).1
    refine List.mem_map.2 ⟨o, ho, Prod.ext hoe ?_⟩
    rw [pinOn_pinned hop, pinOn_pinned hep, PlanEntry.loadOn, PlanEntry.loadOn, how, hcost]

theorem pinLoadOf_le_of_begins (h : PlanSound es ⟨ws, old⟩) (hq : ∀ e ∈ q, e.Begins es old)
    (hn : (q.map PlanEntry.element).Nodup) (k : Nat) : pinLoadOf k q ≤ pinLoadOf k old := by
  have hsum := sum_snd_le_of_subperm (pins_subperm h hq hn k)
  rw [List.map_map, List.map_map] at hsum
  exact pinLoadOf_filter k q ▸ hsum

theorem pins_length_le (h : PlanSound es ⟨ws, old⟩) (hq : ∀ e ∈ q, e.Begins es old)
    (hn : (q.map PlanEntry.element).Nodup) : (q.filter PlanEntry.pinned).length ≤ 64 := by
  have := (pins_subperm h hq hn 0).length_le
  rw [List.length_map, List.length_map] at this
  exact this.trans h.length

/-- A queue of candidates, its pins charged on windows that are otherwise empty. -/
theorem chargePins_sound (h : PlanSound es ⟨ws, old⟩) (hq : ∀ e ∈ q, e.Begins es old)
    (hn : (q.map PlanEntry.element).Nodup) (hl : q.length ≤ 64) :
    PlanSound es ⟨chargePins q (zeroLoads ws), q⟩ where
  length := hl
  nodup := hn
  sited e he := by
    refine ⟨fun k hk => ?_, fun hp hw => ?_, fun hu => (nomatch (hq e he).placed.symm.trans hu)⟩
    · rw [tget_chargePins, tget_zeroLoads, Option.isSome_map, Option.isSome_map]
      have hp : e.pinned = true := Bool.of_not_eq_false fun hp => nomatch ((hq e he).free hp).symm.trans hk
      obtain ⟨o, ho, -, -, how⟩ := (hq e he).pin hp
      exact (h.sited o ho).1 k (how.trans hk)
    · obtain ⟨o, ho, hop, -, how⟩ := (hq e he).pin hp
      exact (h.sited o ho).2.1 hop (how.trans hw)
  loads k w hw := by
    rw [tget_chargePins, tget_zeroLoads, Option.map_map] at hw
    obtain ⟨v, hv, rfl⟩ := Option.map_eq_some_iff.1 hw
    obtain ⟨hu, -, hc⟩ := h.loads k v hv
    have hload : pinLoadOf k q = loadOf k q := pinLoadOf_eq_loadOf fun e he hk =>
      Bool.of_not_eq_false fun hp => nomatch ((hq e he).free hp).symm.trans hk
    refine ⟨(Nat.zero_add _).trans hload, Nat.zero_add _, ?_⟩
    calc 0 + pinLoadOf k q = pinLoadOf k q := Nat.zero_add _
      _ ≤ pinLoadOf k old := pinLoadOf_le_of_begins h hq hn k
      _ ≤ loadOf k old := pinLoadOf_le_loadOf k old
      _ = v.used := hu.symm
      _ ≤ v.capacity := hc
  names e he := (hq e he).names

/-! ### Placement (R151) -/

/-- What a pass for the earliest window ends on is where it began or a window it met. -/
theorem foldl_earlier_mem {l : List (Option Window × Nat)} {best : Option (Window × Nat)} {x : Window × Nat}
    (h : l.foldl earlier best = some x) : best = some x ∨ (some x.1, x.2) ∈ l := by
  induction l generalizing best with
  | nil => exact .inl h
  | cons y l ih =>
    rcases ih h with hb | hm
    · unfold earlier at hb
      split at hb
      · rename_i b w hw
        split at hb
        · cases hb
          exact .inr (List.mem_cons.2 (.inl (Prod.ext hw.symm rfl)))
        · exact .inl hb
      · rename_i w hw
        cases hb
        exact .inr (List.mem_cons.2 (.inl (Prod.ext hw.symm rfl)))
      · exact .inl hb
    · exact .inr (List.mem_cons_of_mem _ hm)

/-- The window chosen exists and takes the entry. -/
theorem takes_of_chooseWindow (h : chooseWindow c e ws = some k) :
    ∃ w, tget ws k none = some w ∧ w.takes c e = true := by
  obtain ⟨⟨w, k'⟩, hx, rfl⟩ := Option.map_eq_some_iff.1 h
  rcases foldl_earlier_mem hx with hn | hm
  · cases hn
  · obtain ⟨y, hy, hyx⟩ := List.mem_map.1 hm
    obtain ⟨hfilter, rfl⟩ := Prod.mk.inj hyx
    obtain ⟨hw, ht⟩ := Option.filter_eq_some_iff.1 hfilter
    exact ⟨w, ((mem_tenum none).1 hy).2.trans hw, ht⟩

theorem cost_le_of_takes (h : w.takes c e = true) : e.cost ≤ w.remaining := by
  simp only [Window.takes, Bool.and_eq_true, decide_eq_true_eq] at h
  exact h.2

namespace PlanSound

theorem placeEntry (h : PlanSound es ⟨ws, e :: r⟩) (hb : e.Begins es old) :
    PlanSound es ⟨(placeEntry c ws e).1, (placeEntry c ws e).2 :: r⟩ := by
  unfold Machine.placeEntry
  split
  · exact h
  · rename_i hp
    have hpin : e.pinned = false := by
      rw [Bool.or_eq_true, not_or, Bool.not_eq_true] at hp
      exact hp.1
    have hrest : PlanSound es ⟨ws, r⟩ := refunded_of_none (hb.free hpin) ws ▸ h.removed
    split
    · rename_i k hk
      obtain ⟨w, hw, ht⟩ := takes_of_chooseWindow hk
      rw [show Window.charge e.cost false = Window.charge e.cost e.pinned from hpin ▸ rfl]
      exact hrest.charged (e := { e with window := some k }) rfl hb.placed hw (cost_le_of_takes ht) h.room
        h.head_fresh hb.names
    · exact hrest.added (e := { e with unplaced := true }) (hb.free hpin) hpin h.room h.head_fresh hb.names

theorem placeAll (h : PlanSound es ⟨ws, q ++ r⟩) (hb : ∀ e ∈ q, e.Begins es old) :
    PlanSound es ⟨(placeAll c ws q).windows, (placeAll c ws q).queue ++ r⟩ := by
  induction q generalizing ws r with
  | nil => exact h
  | cons e q ih =>
    have placed := h.placeEntry (c := c) (hb e List.mem_cons_self)
    have rest := ih (placed.perm List.perm_middle.symm) fun x hx => hb x (List.mem_cons_of_mem _ hx)
    exact rest.perm List.perm_middle

/-! ### Companions (R152) -/

theorem addCompanion (h : PlanSound es p) {x : Element × Nat} (hx : tget es x.2 .vacant = x.1) :
    PlanSound es (addCompanion c percent k p x) := by
  unfold Machine.addCompanion
  split
  · rename_i f w hf hw
    split
    · rename_i hjoins
      simp only [Bool.and_eq_true, decide_eq_true_eq, Option.isNone_iff_eq_none] at hjoins
      obtain ⟨⟨⟨hentry, -⟩, hcost⟩, hlen⟩ := hjoins
      refine (h.charged (ws := p.windows) (k := k)
        (e := ⟨x.2, x.1.generation, f.projection, .companion, some k, false, false, f.settings.cost⟩)
        rfl rfl hw hcost hlen (entry?_eq_none.1 hentry) ?_).perm (insertEntry_perm c _ _).symm
      rw [PlanEntry.names, hx, Element.costed, Element.fitting?, hf]
      rfl
    · exact h
  · exact h

theorem companionsOf (h : PlanSound es p) (e : PlanEntry) : PlanSound es (companionsOf c percent es p e) := by
  unfold Machine.companionsOf
  split
  · exact List.foldlRecOn _ _ h fun p hp x hx =>
      hp.addCompanion ((mem_tenum .vacant).1 (List.mem_of_mem_filter hx)).2
  · exact h

theorem rebuild (h : PlanSound es p) : PlanSound es (rebuild c horizon percent es p) := by
  have begins : ∀ e ∈ candidates c horizon es p.queue, e.Begins es p.queue := fun _ => candidates_begin
  have nodup := candidates_nodup c horizon es p.queue
  have kept : ∀ e ∈ orderEntries c (keptOf (candidates c horizon es p.queue)), e.Begins es p.queue := fun e he =>
    begins e ((keptOf_append_cutOf_perm _).mem_iff.1 (List.mem_append_left _ ((orderEntries_perm _ _).mem_iff.1 he)))
  have keptNodup : ((orderEntries c (keptOf (candidates c horizon es p.queue))).map PlanEntry.element).Nodup :=
    ((orderEntries_perm _ _).map _).nodup_iff.2
      ((((keptOf_append_cutOf_perm _).map _).nodup_iff.2 nodup).sublist ((List.sublist_append_left _ _).map _))
  have length : (orderEntries c (keptOf (candidates c horizon es p.queue))).length ≤ 64 :=
    (orderEntries_perm _ _).length_eq.trans_le (keptOf_length (pins_length_le (ws := p.windows) h begins nodup))
  have pinned := chargePins_sound (ws := p.windows) h kept keptNodup length
  have placed := (pinned.perm (List.append_nil _ ▸ .refl _)).placeAll (c := c) (r := []) kept
  rw [List.append_nil] at placed
  exact foldl_keeps_prop (fun p e hp => hp.companionsOf e) _ placed

theorem replan (h : PlanSound es p) (clock : Option Nat) : PlanSound es (p.replan clock horizon percent es).unit := by
  cases clock with
  | none => exact empty es p.windows
  | some c => exact (h.dropEnded c).rebuild

end PlanSound

end Sys2Proof.Machine
end

section
/-! PIN and UNPIN keep the plan's laws: the entry is seated with no charge, the window's unpinned entries make room for
it, and then it charges the window (R158, R159). -/

namespace Sys2Proof.Machine

variable {es : Vector Element 240} {ws : Vector (Option Window) 8} {q rest : List PlanEntry} {e x new : PlanEntry}
  {i j k c cost : Nat} {w : Window} {p : PlanUnit}

/-! ### What a PIN finds -/

theorem mem_of_pinnedEntry? (h : p.pinnedEntry? i = some e) : e ∈ p.queue ∧ e.pinned = true ∧ e.element = i := by
  have := List.find?_some h
  rw [Bool.and_eq_true, beq_iff_eq] at this
  exact ⟨List.mem_of_find?_eq_some h, this⟩

/-- A PIN's element is pinned to the slot, or the slot's pins leave room and the entry is no pin too many. -/
theorem pinFits_cases (h : p.pinFits i k cost w = true) :
    (∃ x ∈ p.queue, x.element = i ∧ x.pinned = true ∧ x.window = some k) ∨
      w.pinnedLoad + cost ≤ w.capacity ∧
        ((∃ x ∈ p.queue, x.element = i ∧ x.pinned = true) ∨ p.queue.countP PlanEntry.pinned < 64) := by
  unfold PlanUnit.pinFits at h
  split at h
  · rename_i x hx
    obtain ⟨hmem, hpin, hel⟩ := mem_of_pinnedEntry? hx
    rcases Bool.or_eq_true _ _ ▸ h with hwin | hroom
    · exact .inl ⟨x, hmem, hel, hpin, beq_iff_eq.1 hwin⟩
    · exact .inr ⟨of_decide_eq_true hroom, .inl ⟨x, hmem, hel, hpin⟩⟩
  · obtain ⟨hroom, hcount⟩ := Bool.and_eq_true _ _ ▸ h
    exact .inr ⟨of_decide_eq_true hroom, .inr (of_decide_eq_true hcount)⟩

/-- The entry of an element, wherever it stands. -/
theorem entry?_of_perm (hr : p.queue.Perm (e :: rest)) (hne : ∀ x ∈ rest, x.element ≠ e.element) :
    p.entry? e.element = some e := by
  cases h : p.entry? e.element with
  | none => exact absurd rfl (entry?_eq_none.1 h e (hr.mem_iff.2 List.mem_cons_self))
  | some x =>
    obtain ⟨hx, hel⟩ := mem_of_entry? h
    rcases List.mem_cons.1 (hr.mem_iff.1 hx) with rfl | hx
    · rfl
    · exact absurd hel (hne x hx)

theorem capacity_refunded (e : PlanEntry) (hw : tget ws k none = some w) :
    ∃ v, tget (e.refunded ws) k none = some v ∧ v.capacity = w.capacity := by
  unfold PlanEntry.refunded
  split
  · rename_i j _
    rw [tget_onWindow]
    split
    · rename_i hj
      rw [← hj, hw]
      exact ⟨_, rfl, rfl⟩
    · exact ⟨w, hw, rfl⟩
  · exact ⟨w, hw, rfl⟩

/-- The plan's laws hold without the entry `new`, which stands pinned to the slot and is not yet charged; the pins of
the slot's window leave room for it. -/
structure Seated (es : Vector Element 240) (k : Nat) (new : PlanEntry) (rest : List PlanEntry) (p : PlanUnit) :
    Prop where
  perm : p.queue.Perm (new :: rest)
  sound : PlanSound es ⟨p.windows, rest⟩
  fresh : ∀ x ∈ rest, x.element ≠ new.element
  length : rest.length < 64
  room : ∃ w, p.window k = some w ∧ pinLoadOf k rest + new.cost ≤ w.capacity

/-! ### Making room -/

/-- The slot's window has room for a cost. -/
def PlanUnit.hasRoom (p : PlanUnit) (k cost : Nat) : Prop := ∃ w, p.window k = some w ∧ cost ≤ w.remaining

/-- An unpinned entry of the window is taken off it. -/
theorem Seated.takenOff (h : Seated es k new rest p) (hx : x ∈ rest) (hp : x.pinned = false) :
    ∃ r, rest.Perm (x :: r) ∧ (∀ y ∈ r, y.element ≠ x.element) ∧
      Seated es k new (x.offWindow :: r)
        { (p.update x.element PlanEntry.offWindow) with windows := x.refunded p.windows } := by
  obtain ⟨r, hr, hne, hs⟩ := h.sound.split hx
  refine ⟨r, hr, hne, ?_, ?_, ?_, ?_, ?_⟩
  · have hq : p.queue.Perm (x :: new :: r) := h.perm.trans ((hr.cons new).trans (.swap x new r))
    refine (update_perm hq ?_ PlanEntry.offWindow).trans (.swap new x.offWindow r)
    exact List.forall_mem_cons.2 ⟨(h.fresh x hx).symm, hne⟩
  · exact hs.removed.added rfl rfl hs.room hne (hs.names x List.mem_cons_self)
  · exact List.forall_mem_cons.2 ⟨h.fresh x hx, fun y hy => h.fresh y (hr.mem_iff.2 (List.mem_cons_of_mem _ hy))⟩
  · exact hr.length_eq ▸ h.length
  · obtain ⟨w, hw, hroom⟩ := h.room
    obtain ⟨v, hv, hcap⟩ := capacity_refunded x hw
    refine ⟨v, hv, ?_⟩
    rw [pinLoadOf_perm hr, pinLoadOf_cons, pinOn_unpinned hp] at hroom
    rw [hcap, pinLoadOf_cons, pinOn_unpinned rfl]
    exact hroom

/-- With every entry of its window pinned there is room. -/
theorem Seated.hasRoom (h : Seated es k new rest p) (hall : ∀ x ∈ rest, x.window = some k → x.pinned = true) :
    p.hasRoom k new.cost := by
  obtain ⟨w, hw, hroom⟩ := h.room
  refine ⟨w, hw, ?_⟩
  obtain ⟨hu, -, -⟩ := h.sound.loads k w hw
  rw [pinLoadOf_eq_loadOf hall, ← hu] at hroom
  rw [Window.remaining]
  omega

/-- One unpinned entry of the window, examined for room. -/
theorem makeRoom_cons (k cost : Nat) (p : PlanUnit) (x : PlanEntry) (l : List PlanEntry) :
    makeRoom k cost p (x :: l) =
      makeRoom k cost
        (match p.window k with
          | some w =>
              if w.remaining < cost then
                { (p.update x.element PlanEntry.offWindow) with windows := x.refunded p.windows }
              else p
          | none => p) l := rfl

/-- The unpinned entries of the window, taken off one after another, make room. -/
theorem makeRoom_seated {l : List PlanEntry} (h : Seated es k new rest p) (hn : (l.map PlanEntry.element).Nodup)
    (hl : ∀ x ∈ l, x ∈ rest ∧ x.pinned = false)
    (hall : p.hasRoom k new.cost ∨ ∀ x ∈ rest, x.window = some k → x.pinned = false → x ∈ l) :
    ∃ rest', Seated es k new rest' (makeRoom k new.cost p l) ∧ (makeRoom k new.cost p l).hasRoom k new.cost := by
  induction l generalizing p rest with
  | nil =>
    exact ⟨rest, h, hall.elim id fun hall => h.hasRoom fun x hx hw => Bool.of_not_eq_false fun hp =>
      List.not_mem_nil (hall x hx hw hp)⟩
  | cons x l ih =>
    obtain ⟨hx, hp⟩ := hl x List.mem_cons_self
    obtain ⟨hxl, hn'⟩ := List.nodup_cons.1 hn
    obtain ⟨w, hw, -⟩ := h.room
    rw [makeRoom_cons, hw]
    dsimp only
    split
    · rename_i hfull
      have hshort : ¬ p.hasRoom k new.cost := fun ⟨v, hv, hr⟩ => by
        obtain rfl := Option.some.inj (hw.symm.trans hv)
        omega
      obtain ⟨r, hr, hne, hseat⟩ := h.takenOff hx hp
      refine ih hseat hn' (fun y hy => ⟨?_, (hl y (List.mem_cons_of_mem _ hy)).2⟩) (.inr fun y hy hyw hyp => ?_)
      · rcases List.mem_cons.1 (hr.mem_iff.1 (hl y (List.mem_cons_of_mem _ hy)).1) with rfl | hyr
        · exact absurd (List.mem_map_of_mem hy) hxl
        · exact List.mem_cons_of_mem _ hyr
      · rcases List.mem_cons.1 hy with rfl | hyr
        · cases hyw
        · have hyl := hall.resolve_left hshort y (hr.mem_iff.2 (List.mem_cons_of_mem _ hyr)) hyw hyp
          exact (List.mem_cons.1 hyl).resolve_left fun heq => hne y hyr (congrArg PlanEntry.element heq)
    · rename_i hroom
      exact ih h hn' (fun y hy => hl y (List.mem_cons_of_mem _ hy)) (.inl ⟨w, hw, Nat.not_lt.1 hroom⟩)

/-! ### The seat -/

/-- The entry pinned to a slot. -/
def PlanEntry.seatedAt (k : Nat) (e : PlanEntry) : PlanEntry :=
  { e with window := some k, pinned := true, unplaced := false }

@[simp] theorem seatedAt_cost (k : Nat) (e : PlanEntry) : (e.seatedAt k).cost = e.cost := rfl

/-- An entry of the element, moved to the slot. -/
theorem seated_moved {old : PlanEntry} (h : PlanSound es p) (hold : old ∈ p.queue) (hw : p.window k = some w)
    (hcost : old.cost = cost)
    (hfit : (old.pinned = true ∧ old.window = some k) ∨ w.pinnedLoad + cost ≤ w.capacity) :
    ∃ rest, Seated es k (old.seatedAt k) rest
      { (p.update old.element (PlanEntry.seatedAt k)) with
        windows := old.refunded p.windows } := by
  obtain ⟨r, hr, hne, hs⟩ := h.split hold
  obtain ⟨v, hv, hcap⟩ := capacity_refunded old hw
  refine ⟨r, update_perm hr hne _, hs.removed, hne, hs.room, v, hv, ?_⟩
  obtain ⟨hu, hpl, hc⟩ := hs.loads k w hw
  have hle : pinLoadOf k (old :: r) ≤ w.used := hu ▸ pinLoadOf_le_loadOf k (old :: r)
  rw [pinLoadOf_cons] at hpl hle
  rw [hcap]
  rcases hfit with ⟨hp, hk⟩ | hroom
  · rw [pinOn_pinned hp, loadOn_same hk] at hpl hle
    rw [seatedAt_cost]
    omega
  · rw [seatedAt_cost, hcost]
    omega

/-- An entry joins pinned to the slot. -/
theorem seated_joined (h : PlanSound es p) (hl : p.queue.length < 64) (hf : ∀ x ∈ p.queue, x.element ≠ new.element)
    (hw : p.window k = some w) (hroom : pinLoadOf k p.queue + new.cost ≤ w.capacity) (c : Nat) :
    Seated es k new p.queue (p.insert c new) :=
  ⟨insert_perm c p new, h, hf, hl, w, hw, hroom⟩

theorem exists_unpinned (h : p.queue.countP PlanEntry.pinned < p.queue.length) (c : Nat) :
    p.lastUnpinned? c ≠ none := by
  intro hnone
  rw [PlanUnit.lastUnpinned?, List.find?_eq_none] at hnone
  refine Nat.ne_of_lt h (List.countP_eq_length.2 fun x hx => ?_)
  simpa using hnone x (List.mem_reverse.2 ((orderEntries_perm c p.queue).mem_iff.2 hx))

/-- An accepted PIN seats the element's entry. -/
theorem seatPin_seated (h : PlanSound es p) (hn : e.names es) (hw : p.window k = some w)
    (hfit : (∃ x ∈ p.queue, x.element = e.element ∧ x.pinned = true ∧ x.window = some k) ∨
      w.pinnedLoad + e.cost ≤ w.capacity ∧
        ((∃ x ∈ p.queue, x.element = e.element ∧ x.pinned = true) ∨ p.queue.countP PlanEntry.pinned < 64)) (c : Nat) :
    ∃ new rest, Seated es k new rest (p.seatPin c e k).1 ∧ new.names es ∧ new.element = e.element ∧
      new.window = some k ∧ new.pinned = true ∧ new.unplaced = false := by
  unfold PlanUnit.seatPin
  split
  · rename_i old hold
    obtain ⟨hmem, hel⟩ := mem_of_entry? hold
    have hnames := h.names old hmem
    have hcost : old.cost = e.cost := by
      have := hn
      rw [PlanEntry.names, ← hel, hnames] at this
      exact Option.some.inj (Prod.mk.inj this).1
    have hfit' : (old.pinned = true ∧ old.window = some k) ∨ w.pinnedLoad + e.cost ≤ w.capacity := by
      rcases hfit with ⟨x, hx, hxe, hxp, hxw⟩ | ⟨hroom, -⟩
      · obtain rfl := List.inj_on_of_nodup_map h.nodup hx hmem (hxe.trans hel.symm)
        exact .inl ⟨hxp, hxw⟩
      · exact .inr hroom
    obtain ⟨rest, hs⟩ := seated_moved h hmem hw hcost hfit'
    exact ⟨old.seatedAt k, rest, hel ▸ hs, hnames, hel, rfl, rfl, rfl⟩
  · rename_i hnone
    have hfresh := entry?_eq_none.1 hnone
    obtain ⟨hroom, hcount⟩ : w.pinnedLoad + e.cost ≤ w.capacity ∧ p.queue.countP PlanEntry.pinned < 64 := by
      rcases hfit with ⟨x, hx, hxe, -⟩ | ⟨hroom, ⟨x, hx, hxe, -⟩ | hcount⟩
      · exact absurd hxe (hfresh x hx)
      · exact absurd hxe (hfresh x hx)
      · exact ⟨hroom, hcount⟩
    rw [(h.loads k w hw).2.1] at hroom
    dsimp only
    split
    · rename_i hl
      exact ⟨e.seatedAt k, _, seated_joined (new := e.seatedAt k) h hl hfresh hw hroom c, hn, rfl, rfl, rfl, rfl⟩
    · rename_i hl
      have hfull : p.queue.countP PlanEntry.pinned < p.queue.length := hcount.trans_le (Nat.not_lt.1 hl)
      split
      · rename_i last hlast
        have hmem := (PlanSound.lastUnpinned?_mem hlast).1
        obtain ⟨hs, hlen, hsub⟩ := h.remove hmem
        obtain ⟨r, hr, hne, -⟩ := h.split hmem
        obtain ⟨v, hv, hcap⟩ := capacity_refunded last hw
        refine ⟨e.seatedAt k, _,
          seated_joined (new := e.seatedAt k) hs hlen (fun x hx => hfresh x (hsub x hx).1) hv ?_ c,
          hn, rfl, rfl, rfl, rfl⟩
        have hq : (p.remove last).queue.Perm r := filter_perm hr hne
        rw [pinLoadOf_perm hr, pinLoadOf_cons] at hroom
        rw [hcap, pinLoadOf_perm hq]
        rw [seatedAt_cost]
        omega
      · rename_i hnone'
        exact absurd hnone' (exists_unpinned hfull c)

namespace PlanSound

/-- An accepted PIN keeps the laws. -/
theorem pin (h : PlanSound es p) (hn : e.names es) (hw : p.window k = some w)
    (hfit : p.pinFits e.element k e.cost w = true) (c : Nat) : PlanSound es (p.pin c e k).1 := by
  have horder := orderEntries_perm c p.queue
  have hfit' := pinFits_cases hfit
  simp only [← horder.mem_iff, ← horder.countP_eq] at hfit'
  obtain ⟨new, rest, hs, hnew, hel, hk, hp, hu⟩ := seatPin_seated (h.reorder c) hn hw hfit' c
  have hcost : (((((p.reorder c).seatPin c e k).1.entry? e.element).map PlanEntry.cost).getD e.cost) = new.cost := by
    rw [← hel, entry?_of_perm hs.perm hs.fresh]
    rfl
  have hmem : ∀ x, x ∈ ((p.reorder c).seatPin c e k).1.unpinnedIn k ↔
      x ∈ rest ∧ x.pinned = false ∧ x.window = some k := by
    intro x
    rw [PlanUnit.unpinnedIn, List.mem_filter, List.mem_reverse, hs.perm.mem_iff, List.mem_cons, Bool.and_eq_true,
      Bool.not_eq_true', beq_iff_eq]
    refine ⟨fun ⟨hx, hxp, hxw⟩ => ⟨hx.resolve_left ?_, hxp, hxw⟩, fun ⟨hx, hxp, hxw⟩ => ⟨.inr hx, hxp, hxw⟩⟩
    rintro rfl
    exact nomatch hp.symm.trans hxp
  have hnodup : ((((p.reorder c).seatPin c e k).1.unpinnedIn k).map PlanEntry.element).Nodup := by
    refine List.Nodup.sublist (List.filter_sublist.map _) ?_
    rw [List.map_reverse, List.nodup_reverse, (hs.perm.map _).nodup_iff]
    exact List.nodup_cons.2 ⟨by simpa using hs.fresh, hs.sound.nodup⟩
  obtain ⟨rest', hs', v, hv, hroom⟩ := makeRoom_seated hs hnodup
    (fun x hx => ⟨((hmem x).1 hx).1, ((hmem x).1 hx).2.1⟩) (.inr fun x hx hxw hxp => (hmem x).2 ⟨hx, hxp, hxw⟩)
  have charged := hs'.sound.charged hk hu hv hroom hs'.length hs'.fresh hnew
  rw [hp] at charged
  unfold PlanUnit.pin
  simp only [hcost]
  exact charged.perm hs'.perm.symm

/-- An accepted UNPIN keeps the laws. -/
theorem unpin (h : PlanSound es p) (he : p.pinnedEntry? i = some e) : PlanSound es (p.unpin e) := by
  obtain ⟨hmem, hp, -⟩ := mem_of_pinnedEntry? he
  obtain ⟨r, hr, hne, hs⟩ := h.split hmem
  obtain ⟨k, hk⟩ := Option.ne_none_iff_exists'.1 ((h.sited e hmem).2.1 hp)
  have := of_update (p := p) (g := fun x => { x with pinned := false }) hr hne (hs.unpinned hp hk)
  rw [PlanUnit.unpin, hk]
  exact this

end PlanSound

end Sys2Proof.Machine
end

section
/-! The plan's laws (R142, R146) in the part: every row keeps them. -/

namespace Sys2Proof.Machine

variable {es : Vector Element 240} {s u : State} {p : PlanUnit} {i : Nat} {f g : Fitting}

/-! ### What the plan reads of the element table -/

theorem costed_tset {e : Element} (h : e.costed = (tget es i .vacant).costed) (j : Nat) :
    (tget (tset es i e) j .vacant).costed = (tget es j .vacant).costed := by
  rw [tget_tset]
  split
  · rename_i hj
    rw [h, hj.1]
  · rfl

theorem costed_tmap {g : Element → Element} (hg : ∀ e, (g e).costed = e.costed) (hv : g .vacant = .vacant)
    (es : Vector Element 240) (j : Nat) : (tget (tmap g es) j .vacant).costed = (tget es j .vacant).costed := by
  rw [tget_tmap_default _ _ _ _ hv, hg]

theorem costed_onFitting {g : Fitting → Fitting} (hg : ∀ f, (g f).settings.cost = f.settings.cost) (e : Element) :
    (e.onFitting g).costed = e.costed := by
  obtain ⟨n, _ | _ | f⟩ := e
  · rfl
  · rfl
  · exact congrArg (fun c => (some c, n)) (hg f)

theorem costed_rollTable (L : Nat) (carried : Option Nat) (first count : Nat) (es : Vector Element 240) (j : Nat) :
    (tget (rollTable L carried first count es) j .vacant).costed = (tget es j .vacant).costed := by
  by_cases hj : j < 240
  · rw [rollTable, tget_tslice _ _ _ _ _ hj]
    split
    · exact costed_onFitting (g := Fitting.rolled L carried) (fun _ => rfl) _
    · rfl
  · rw [tget_of_le _ _ (by omega), tget_of_le _ _ (by omega)]

theorem costed_waiveElement (t : Nat) (e : Element) : (waiveElement t e).costed = e.costed := by
  obtain ⟨n, _ | _ | f⟩ := e
  · rfl
  · rfl
  · unfold waiveElement
    dsimp only
    split <;> rfl

/-- An element that is not assigned has no entry. -/
theorem PlanSound.no_entry (h : PlanSound es p) (hi : (tget es i .vacant).fitting? = none) :
    ∀ x ∈ p.queue, x.element ≠ i := by
  rintro x hx rfl
  have := h.names x hx
  rw [PlanEntry.names, Element.costed, hi] at this
  cases (Prod.mk.inj this).1

/-- The plan after start-up. -/
theorem PlanSound.fresh (es : Vector Element 240) : PlanSound es .fresh where
  length := Nat.zero_le _
  nodup := List.nodup_nil
  sited _ he := nomatch he
  loads k w hw := by
    rw [PlanUnit.fresh, tget_replicate] at hw
    split at hw <;> cases hw
  names _ he := nomatch he

/-! ### The part -/

/-- The plan's laws over the part's element table. -/
def State.planSound (s : State) : Prop := PlanSound s.elements s.plan

theorem planSound_congr (he : u.elements = s.elements) (hp : u.plan = s.plan) (hs : s.planSound) : u.planSound := by
  rw [State.planSound, he, hp]
  exact hs

/-- The elements may change in what the plan does not read. -/
theorem planSound_costed (he : ∀ i, (tget u.elements i .vacant).costed = (tget s.elements i .vacant).costed)
    (hs : PlanSound s.elements u.plan) : u.planSound :=
  hs.table fun x _ => he x.element

/-- An element without an entry may change in any way. -/
theorem planSound_tset {e : Element} (he : u.elements = tset s.elements i e) (hs : PlanSound s.elements u.plan)
    (hi : ∀ x ∈ u.plan.queue, x.element ≠ i) : u.planSound :=
  hs.table fun x hx => by rw [he, tget_tset_ne _ _ _ (hi x hx)]

theorem planSound_setFitting (hs : s.planSound) (hf : s.fitting? i = some f)
    (hc : g.settings.cost = f.settings.cost) : (s.setFitting i g).planSound :=
  planSound_costed (costed_tset (by
    rw [← element_eq, costed_of_fitting hf, ← hc]
    rfl)) hs

theorem planSound_host : KeptByHost State.planSound where
  chosen s := planSound_congr (arbitrate_elements s) (arbitrate_plan s)
  inHand _ _ := planSound_congr rfl rfl
  frame _ _ := planSound_congr rfl rfl

/-! ### Hand-offs (R10) -/

theorem planNotice_sound {ev : Evaluation} (hs : s.planSound) (hf : s.fitting? i = some f)
    (hc : ev.fitting.settings.cost = f.settings.cost) : PlanSound s.elements (s.planNotice i ev).1 := by
  unfold State.planNotice
  split
  · refine hs.milestoneNotice ?_ s.clock
    dsimp only
    rw [hc]
    exact costed_of_fitting hf
  · split
    · exact hs.projectionNotice _ _ _
    · exact hs

/-- An evaluation keeps its element's cost. -/
theorem handOff_planSound {o : Offer} {ev : Evaluation} (hs : s.planSound) (hf : s.fitting? o.element = some f)
    (hc : ev.fitting.settings.cost = f.settings.cost) : (s.handOff o ev).planSound :=
  planSound_costed (costed_tset (by
    rw [← element_eq, costed_of_fitting hf, ← hc]
    rfl)) (planNotice_sound hs hf hc)

theorem planSound_charges : KeptByCharges State.planSound := by
  intro s i f c hf hs
  rw [applyCharge_eq]
  refine handOff_planSound (planSound_congr rfl rfl hs) hf ?_
  rw [evaluate_settings, afterCharge_settings, charge_settings]

theorem replan_planSound (hs : s.planSound) : s.replan.planSound := PlanSound.replan hs s.clock

theorem planSound_boundary : KeptByBoundary State.planSound where
  charges := planSound_charges
  work _ _ := planSound_congr rfl rfl
  done _ := planSound_congr rfl rfl
  counted _ _ := planSound_congr rfl rfl
  timer _ _ := planSound_congr rfl rfl
  rolled _ L carried first count hs := planSound_costed (costed_rollTable L carried first count _) hs
  closed _ := planSound_congr rfl rfl
  replanned _ := replan_planSound
  triggered s := planSound_congr (triggerCheckpoint_elements s) (triggerCheckpoint_plan s)

/-! ### The line link and records taken (R27) -/

theorem lineBytes_planSound (hs : s.planSound) (bytes : List Byte) : (s.lineBytes bytes).planSound :=
  planSound_congr (lineBytes_elements s bytes) (foldl_keeps State.plan lineByte_plan bytes s) hs

theorem beginRecord_planSound (hs : s.planSound) (acts : Option Nat) (r : LineRecord) :
    (s.beginRecord acts r).planSound := by
  have worked := planSound_boundary.toKeptByWork
  cases r with
  | item it =>
    rw [State.beginRecord]
    split
    · exact itemWork_keeps worked _ _ _ _ _ (planSound_congr rfl rfl hs)
    · exact planSound_congr rfl rfl hs
  | mode m => exact planSound_congr (takeMode_elements s m) (takeMode_plan s m) hs
  | tach t drive belt valid => exact planSound_congr rfl rfl hs
  | jam t severity =>
    have counted : (s.onTransport t Transport.countJam).planSound := planSound_congr rfl rfl hs
    rw [State.beginRecord]
    split
    · exact jamWork_keeps worked _ _ _ _ _ _ counted
    · exact counted

theorem takeRecord_planSound (hs : s.planSound) : s.takeRecord.planSound := by
  unfold State.takeRecord
  split
  · exact hs
  · exact goOn_keeps planSound_boundary.toKeptByWork _ _ (planSound_congr rfl rfl hs)
  · refine beginRecord_planSound ?_ _ _
    exact planSound_congr rfl rfl hs
  · exact hs

/-! ### Time (R40, R128, R145) -/

theorem takePlan_tick_planSound (hs : s.planSound) (carried : Option Nat) :
    (s.takePlan (s.plan.tick carried)).planSound := PlanSound.tick hs carried

theorem deliverPlanTick_planSound (hs : s.planSound) : s.deliverPlanTick.planSound := by
  unfold State.deliverPlanTick
  split
  · exact PlanSound.tick hs _
  · exact hs

theorem tickPlan_planSound (hs : s.planSound) (carried : Option Nat) : (s.tickPlan carried).planSound := by
  unfold State.tickPlan
  split
  · split
    · exact planSound_congr rfl rfl hs
    · exact takePlan_tick_planSound hs _
  · exact takePlan_tick_planSound hs none

theorem minuteTick_planSound (hs : s.planSound) (examined : Option Nat) : (s.minuteTick examined).planSound := by
  have held : s.deliverPlanTick.deliverHoldTick.planSound :=
    planSound_congr (deliverHoldTick_elements _) (deliverHoldTick_plan _) (deliverPlanTick_planSound hs)
  have finished : s.finishTick.planSound := planSound_boundary.finishBoundary held
  have counted : s.finishTick.countTick.planSound := planSound_congr rfl rfl finished
  have charged := planSound_boundary.runOn counted examined
  have ticked : ((s.finishTick.countTick.runOn examined).onTransports Transport.countMinute).tickHolds.planSound :=
    planSound_congr (tickHolds_elements _) (tickHolds_plan _) (planSound_congr rfl rfl charged)
  exact tickPlan_planSound ticked _

theorem takeTick_planSound (hs : s.planSound) (examined : Option Nat) : (s.takeTick examined).planSound := by
  unfold State.takeTick
  split
  · exact planSound_boundary.runOn hs examined
  · exact minuteTick_planSound hs examined

theorem takeBoundary_planSound (hs : s.planSound) : s.takeBoundary.planSound := by
  have kept := planSound_boundary
  have begun : s.cutTaken.planSound := planSound_congr rfl rfl hs
  unfold State.takeBoundary
  split
  · exact hs
  · split
    · exact kept.deliverRoll (kept.deliverSnapshot begun) _
    · exact kept.deliverSnapshot begun
    · exact kept.deliverRoll begun _

/-! ### Start-ups (R142, R146, R173, R175) -/

/-- A start-up leaves the plan at its value after start-up, whatever the elements. -/
theorem planSound_of_fresh (h : u.plan = .fresh) : u.planSound := by
  rw [State.planSound, h]
  exact .fresh _

theorem beginStartup_planSound (s : State) (store : Store) (erasing : Bool) :
    (s.beginStartup store erasing).planSound := planSound_of_fresh rfl

theorem restore_planSound (hs : s.planSound) : s.restore.planSound := by
  unfold State.restore
  split
  · exact hs
  · exact planSound_of_fresh (by simp)

theorem takeStartup_planSound (hs : s.planSound) (acts : Option Nat) : (s.takeStartup acts).planSound := by
  cases acts with
  | none => exact planSound_of_fresh rfl
  | some n => exact restore_planSound hs

theorem replySent_planSound (hs : s.planSound) : s.replySent.planSound := by
  unfold State.replySent
  split
  · split
    · exact planSound_congr rfl rfl hs
    · exact beginStartup_planSound _ _ _
    · exact beginStartup_planSound _ _ _
  · exact hs

/-! ### Requests on the clock and the options (R130, R132, R133, R188) -/

theorem setClockWork_planSound (hs : s.planSound) (v : Nat) : (setClockWork v s).state.planSound := by
  unfold setClockWork
  split_ifs
  · exact hs
  · exact hs
  · exact PlanSound.replan (PlanSound.dropEnded hs v) _

theorem setOptionsWork_planSound (hs : s.planSound) (fields : OptionFields) :
    (setOptionsWork fields s).state.planSound := by
  unfold setOptionsWork
  split
  · exact hs
  · split
    · exact hs
    · dsimp only [accept]
      unfold State.putOptions
      split
      · exact planSound_congr rfl rfl hs
      · exact planSound_costed (s := s.finishBoundary)
          (costed_tmap (costed_onFitting (g := Fitting.restarted) fun _ => rfl) rfl _)
          (planSound_boundary.finishBoundary hs)

/-! ### Requests on elements (R12 to R22) -/

theorem assignElementWork_planSound (hs : s.planSound) (n : Nat) (fields : SettingFields) (a : Nat) :
    (assignElementWork n fields a s).state.planSound := by
  unfold assignElementWork
  split
  · exact hs
  · rename_i hn
    split
    · exact hs
    · rename_i hfree
      split
      · exact hs
      · rename_i v hv
        have hnone : s.fitting? n = none := by simpa using hfree
        have fitted : (s.fit n (v.fitted a)).planSound :=
          planSound_tset (fit_elements s n (v.fitted a)) hs (hs.no_entry hnone)
        refine handOff_planSound (f := v.fitted a) fitted ?_ rfl
        rw [fitting?_of_tset (fit_elements s n (v.fitted a)), if_pos ⟨rfl, Nat.lt_succ_of_le (Nat.not_lt.1 hn)⟩]

/-- The element's entry leaves as the element's record changes. -/
theorem dropEntry_planSound {e : Element} (hs : s.planSound) (he : u.elements = tset s.elements i e)
    (hp : u.plan = s.plan) : (u.dropEntry i).planSound := by
  obtain ⟨hsound, hgone⟩ := hs.removalNotice i
  rw [← hp] at hsound hgone
  exact planSound_tset (u := u.dropEntry i) he hsound hgone

theorem replaceElementWork_planSound (hs : s.planSound) (n : Nat) : (replaceElementWork n s).state.planSound := by
  unfold replaceElementWork
  split
  · exact hs
  · split
    · exact hs
    · rename_i f hf
      exact planSound_congr rfl rfl (dropEntry_planSound hs (fit_elements s n f.replaced) rfl)

theorem retireElementWork_planSound (hs : s.planSound) (n : Nat) : (retireElementWork n s).state.planSound := by
  unfold retireElementWork
  dsimp only
  split
  · exact hs
  · split
    · exact hs
    · rename_i hsuspect
      refine planSound_tset (vacate_elements s n) hs (hs.no_entry ?_)
      rw [← element_eq, Element.fitting?, hsuspect]
    · exact planSound_congr rfl rfl (dropEntry_planSound hs (vacate_elements s n) rfl)

theorem setThresholdsWork_planSound (hs : s.planSound) (n advisory due limit : Nat) :
    (setThresholdsWork n advisory due limit s).state.planSound := by
  unfold setThresholdsWork
  split
  · exact hs
  · split
    · exact hs
    · rename_i f hf
      split
      · exact hs
      · split
        · exact handOff_planSound hs hf rfl
        · exact hs

/-- A cost notice carries the cost that the element's record then has. -/
theorem reweigh_planSound (hs : s.planSound) (hf : s.fitting? i = some f) (v : Settings) :
    (s.reweigh i f v).planSound := by
  refine planSound_congr (s := (s.setFitting i { f with settings := v }).recost i f.settings.cost v.cost) rfl rfl ?_
  unfold State.recost
  split
  · rename_i hc
    exact planSound_setFitting hs hf hc.symm
  · refine PlanSound.costNotice hs (fun j hj => ?_) ?_
    · rw [takePlan_elements, setFitting_elements, tget_tset_ne _ _ _ hj]
    · rw [takePlan_elements, setFitting_elements, tget_tset_self _ _ _ (fitting?_lt hf)]
      rfl

theorem setWeightsWork_planSound (hs : s.planSound) (n : Nat) (fields : WeightFields) :
    (setWeightsWork n fields s).state.planSound := by
  unfold setWeightsWork
  split
  · exact hs
  · split
    · exact hs
    · rename_i f hf
      split
      · exact hs
      · exact reweigh_planSound hs hf _

/-! ### Requests on holds (R123 to R125) -/

theorem waiveHoldWork_planSound (hs : s.planSound) (n setting : Nat) : (waiveHoldWork n setting s).state.planSound := by
  unfold waiveHoldWork
  split
  · exact hs
  · split
    · exact hs
    · rename_i f hf
      split
      · split
        · exact planSound_congr rfl rfl (planSound_setFitting hs hf rfl)
        · exact hs
      · exact hs

theorem waiveTransport_planSound (hs : s.planSound) (t : Nat) : (s.waiveTransport t).planSound :=
  planSound_costed (costed_tmap (costed_waiveElement t) rfl s.elements) hs

theorem abort_planSound (hs : s.planSound) (k t : Nat) : (s.abort k t).planSound :=
  planSound_congr rfl rfl (waiveTransport_planSound hs t)

theorem abortHoldWork_planSound (hs : s.planSound) (k : Nat) : (abortHoldWork k s).state.planSound := by
  unfold abortHoldWork
  split
  · exact hs
  · split
    · exact abort_planSound hs _ _
    · exact abort_planSound hs _ _
    · exact hs

theorem releaseHoldWork_planSound (hs : s.planSound) (t : Nat) : (releaseHoldWork t s).state.planSound := by
  unfold releaseHoldWork
  split
  · exact hs
  · exact planSound_congr rfl rfl (waiveTransport_planSound hs t)

/-! ### Requests on the plan (R143, R144, R158, R159) -/

theorem addWindowWork_planSound (hs : s.planSound) (start length capacity : Nat) :
    (addWindowWork start length capacity s).state.planSound := by
  unfold addWindowWork
  split
  · exact hs
  · split
    · split
      · rename_i k hk
        have hfree : s.plan.window k = none :=
          Option.isNone_iff_eq_none.1 (List.find?_some (p := fun k => (s.plan.window k).isNone) hk)
        exact PlanSound.replan (PlanSound.addWindow hs hfree start length capacity) _
      · exact hs
    · exact hs

theorem removeWindowWork_planSound (hs : s.planSound) (k : Nat) : (removeWindowWork k s).state.planSound := by
  unfold removeWindowWork
  split
  · exact hs
  · split
    · exact PlanSound.replan (PlanSound.removeWindow hs (by omega)) _
    · exact hs

theorem pinWork_planSound (hs : s.planSound) (n k : Nat) : (pinWork n k s).state.planSound := by
  unfold pinWork
  split
  · exact hs
  · split
    · exact hs
    · exact hs
    · exact hs
    · rename_i c f w _ hf hw
      split
      · rename_i hfit
        exact PlanSound.replan (PlanSound.pin (e := s.pinEntry n f) hs (costed_of_fitting hf) hw hfit c) _
      · exact hs

theorem unpinWork_planSound (hs : s.planSound) (n : Nat) : (unpinWork n s).state.planSound := by
  unfold unpinWork
  split
  · exact hs
  · split
    · rename_i e he
      exact PlanSound.replan (PlanSound.unpin hs he) _
    · exact hs

/-! What the work of the other requests leaves as it is: the plan. -/

theorem startWork_plan (s : State) : (startWork s).state.plan = s.plan := by
  unfold startWork
  split_ifs <;> rfl

theorem stopWork_plan (s : State) : (stopWork s).state.plan = s.plan := by
  unfold stopWork
  split_ifs
  · exact triggerCheckpoint_plan _
  · rfl

theorem wipeWork_plan (s : State) : (wipeWork s).state.plan = s.plan := by
  unfold wipeWork
  split_ifs <;> rfl

theorem setWatchWork_plan (n : Nat) (s : State) : (setWatchWork n s).state.plan = s.plan := by
  unfold setWatchWork
  split <;> rfl

theorem armCaptureWork_plan (level scope : Nat) (s : State) : (armCaptureWork level scope s).state.plan = s.plan := by
  unfold armCaptureWork
  split <;> rfl

theorem editMap_plan (s : State) (ok : Bool) (m : RouteMap) (reply : List Byte) :
    (s.editMap ok m reply).state.plan = s.plan := by
  unfold State.editMap
  split_ifs <;> rfl

theorem saveWork_plan (s : State) : (saveWork s).state.plan = s.plan := by
  unfold saveWork
  split <;> exact triggerCheckpoint_plan _

theorem fetchAlertsWork_plan (mask : BitVec 32) (s : State) : (fetchAlertsWork mask s).state.plan = s.plan := by
  unfold fetchAlertsWork
  split_ifs <;> rfl

theorem setNoticeMaskWork_plan (mask : BitVec 32) (s : State) :
    (setNoticeMaskWork mask s).state.plan = s.plan := by
  unfold setNoticeMaskWork
  split_ifs <;> rfl

/-! ### Rows -/

/-- A row whose work keeps the elements and the plan. -/
theorem request_planSound {i : Instr} {work : State → Answer} (hs : s.planSound)
    (he : (work s).state.elements = s.elements) (hp : (work s).state.plan = s.plan) :
    Lands State.planSound (s.request i work) :=
  request_lands planSound_host hs (planSound_congr he hp hs)

theorem act_planSound {f : State → State} (hs : s.planSound) (he : (f s).elements = s.elements)
    (hp : (f s).plan = s.plan) : Lands State.planSound (s.act f) :=
  act_lands planSound_host hs (planSound_congr he hp hs)

/-- Every row of a request keeps the plan's laws. -/
theorem request_row_planSound (i : Instr) (s : State) (hi : requestCommand i ≠ none) (hs : s.planSound) :
    Lands State.planSound (exec i s) := by
  have works : ∀ {i : Instr} {work : State → Answer}, (work s).state.planSound →
      Lands State.planSound (s.request i work) := fun h => request_lands planSound_host hs h
  cases i with
  | setClock v => exact works (setClockWork_planSound hs v)
  | start => exact request_planSound hs (startWork_elements s) (startWork_plan s)
  | stop => exact request_planSound hs (stopWork_elements s) (stopWork_plan s)
  | wipe => exact request_planSound hs (wipeWork_elements s) (wipeWork_plan s)
  | setOptions fields => exact works (setOptionsWork_planSound hs fields)
  | assignElement n fields a => exact works (assignElementWork_planSound hs n fields a)
  | replaceElement n => exact works (replaceElementWork_planSound hs n)
  | retireElement n => exact works (retireElementWork_planSound hs n)
  | setThresholds n a d l => exact works (setThresholdsWork_planSound hs n a d l)
  | setWeights n fields => exact works (setWeightsWork_planSound hs n fields)
  | waiveHold n setting => exact works (waiveHoldWork_planSound hs n setting)
  | abortHold k => exact works (abortHoldWork_planSound hs k)
  | releaseHold t => exact works (releaseHoldWork_planSound hs t)
  | setWatch n => exact request_planSound hs (setWatchWork_elements n s) (setWatchWork_plan n s)
  | armCapture level scope =>
    exact request_planSound hs (armCaptureWork_elements level scope s) (armCaptureWork_plan level scope s)
  | setMask _ _ | setRoute _ _ _ _ _ | clearRoute _ | setCommonPath _ =>
    exact request_planSound hs (editMap_elements s _ _ _) (editMap_plan s _ _ _)
  | addWindow start length capacity => exact works (addWindowWork_planSound hs start length capacity)
  | removeWindow k => exact works (removeWindowWork_planSound hs k)
  | pin n k => exact works (pinWork_planSound hs n k)
  | unpin n => exact works (unpinWork_planSound hs n)
  | replan => exact request_lands planSound_host hs (replan_planSound hs)
  | save => exact request_planSound hs (saveWork_elements s) (saveWork_plan s)
  | readSaveStatus => exact execReadSaveStatus_lands planSound_host hs
  | fetchAlerts mask => exact request_planSound hs (fetchAlertsWork_elements mask s) (fetchAlertsWork_plan mask s)
  | setNoticeMask mask =>
    exact request_planSound hs (setNoticeMaskWork_elements mask s) (setNoticeMaskWork_plan mask s)
  | readElement _ | listElements _ _ _ | readRoute _ | readRouteCounts _ | readTransport _
  | readIntervalCounts _ _ | readPlan _ | readWindows _ =>
    exact request_planSound hs (by split <;> rfl) (by split <;> rfl)
  | status | restart | readOptions | clearCounts | readWatch | readCapture | readHolds =>
    exact request_planSound hs rfl rfl
  | _ => exact absurd rfl hi

/-- Every row keeps the plan's laws. -/
theorem row_planSound (i : Instr) (s : State) (hs : s.planSound) : Lands State.planSound (exec i s) := by
  have host := planSound_host
  cases i with
  | powerOn => exact lands_next.2 (host.chosen _ (beginStartup_planSound _ _ _))
  | resetPin erased =>
    exact act_lands (f := fun s => s.beginStartup (s.storeAtReset erased) false) host hs
      (beginStartup_planSound _ _ _)
  | powerLoss tear erased torn =>
    refine lands_next.2 ?_
    split
    · exact planSound_of_fresh rfl
    · exact hs
  | startupEnd =>
    refine act_lands host hs ?_
    split
    · exact takeStartup_planSound (s := s.cutTaken) (planSound_congr rfl rfl hs) _
    · exact hs
  | lineRecordArrival bytes => exact act_lands (f := (·.lineBytes bytes)) host hs (lineBytes_planSound hs bytes)
  | lineRecordAbandoned => exact act_planSound hs (lineGap_elements s) (lineGap_plan s)
  | takeRecord => exact act_lands host hs (takeRecord_planSound hs)
  | lineTxSent => exact act_planSound (f := fun s => { s with hold := s.hold.headSent _ }) hs rfl rfl
  | holdTimerExpiry slot => exact act_planSound (f := (·.expireSlot slot)) hs rfl rfl
  | minuteTick =>
    refine act_lands host hs ?_
    split
    · exact takeTick_planSound (s := s.cutTaken) (planSound_congr rfl rfl hs) _
    · exact hs
  | deferralEnd => exact act_planSound hs (deliverHoldTick_elements s) (deliverHoldTick_plan s)
  | windowExpiry => exact act_lands host hs (deliverPlanTick_planSound hs)
  | intervalBoundary => exact act_lands host hs (takeBoundary_planSound hs)
  | checkpointRecordWritten result =>
    exact act_planSound (f := (·.recordWritten result)) hs (recordWritten_elements s result)
      (recordWritten_plan s result)
  | hostReplySent =>
    exact execHostReplySent_lands host (fun _ => planSound_congr rfl rfl) (fun _ => replySent_planSound)
      request_row_planSound hs
  | busyReplySent => exact act_planSound hs (busySent_elements s) (busySent_plan s)
  | noticeSent => exact act_planSound hs (noticeSent_elements s) (noticeSent_plan s)
  | lineByteReceived b => exact act_planSound (f := (·.lineByte b)) hs (lineByte_elements s b) (lineByte_plan s b)
  | hostFrameComplete bytes => exact act_planSound (f := (·.hostReceive bytes)) hs rfl rfl
  | hostFrameAbandoned =>
    exact act_planSound (f := fun s => { s with host := { s.host with rx := .hunting } }) hs rfl rfl
  | hostByteReceived b => exact act_planSound (f := (·.hostReceive [b])) hs rfl rfl
  | _ => exact request_row_planSound _ s (by simp [requestCommand]) hs

/-- Settles O59: every row keeps the plan's laws, and taking a command off the queue keeps the elements and the plan. -/
theorem planLawKept : Obligations.PlanLawKept := by
  intro s t hs h
  have hsound : s.planSound := (planLawful_iff_sound s).1 hs
  exact (planLawful_iff_sound t).2
    (step_keeps (P := State.planSound) (fun _ _ => planSound_congr rfl rfl) row_planSound hsound t h)

end Sys2Proof.Machine
end

section
/-! What each notice of the element table does to the plan (R153 to R157; notes/assumptions/17.md). -/

namespace Sys2Proof.Machine

variable {p : PlanUnit} {e last : PlanEntry} {n : MilestoneNotice} {c i k cost : Nat} {w : Window}

/-! ### An element's entry, its window, its leaving -/

theorem update_eq (p : PlanUnit) (i : Nat) (g : PlanEntry → PlanEntry) :
    p.update i g = { p with queue := p.queue.map fun e => if e.element = i then g e else e } := by
  simp only [PlanUnit.update, beq_iff_eq]

theorem remove_eq (p : PlanUnit) (e : PlanEntry) :
    p.remove e =
      { windows := e.refunded p.windows, queue := p.queue.filter fun x => x.element ≠ e.element } := by
  simp only [PlanUnit.remove, bne_eq_decide_ne]

theorem window_lt (hw : p.window k = some w) : k < 8 := by
  by_contra hk
  exact nomatch (tget_of_le p.windows none (Nat.not_lt.1 hk)).symm.trans hw

theorem onWindow_window (g : Window → Window) (hw : p.window k = some w) :
    onWindow g p.windows k = tset p.windows k (some (g w)) := by
  rw [onWindow, show tget p.windows k none = some w from hw]
  rfl

/-- A cost in the place of an entry's own, in its window. -/
theorem recharged (hk : e.window = some k) (hw : p.window k = some w) (cost : Nat) :
    onWindow (Window.charge cost e.pinned) (e.refunded p.windows) k =
      tset p.windows k (some { w with
        used := w.used - e.cost + cost
        pinnedLoad := if e.pinned then w.pinnedLoad - e.cost + cost else w.pinnedLoad }) := by
  rw [refunded_of_window hk, onWindow_window _ hw, onWindow, tget_tset_self _ _ _ (window_lt hw), tset_tset]
  cases e.pinned <;> rfl

/-! ### A new entry (R154, R155) -/

theorem addNew_joins (hl : p.queue.length < 64) : p.addNew c e = (p.insert c e, []) := if_pos hl

theorem addNew_full (hl : 64 ≤ p.queue.length) :
    p.addNew c e =
      match p.lastUnpinned? c with
      | some last =>
          if e.before c last then
            ((p.remove last).insert c e, .raised .planFull last.element :: settleEnd p (p.remove last))
          else (p, [.raised .planFull e.element])
      | none => (p, [.raised .planFull e.element]) := if_neg (Nat.not_lt.2 hl)

theorem addNew_displaces (hl : 64 ≤ p.queue.length) (hlast : p.lastUnpinned? c = some last)
    (hb : e.before c last = true) :
    p.addNew c e = ((p.remove last).insert c e, .raised .planFull last.element :: settleEnd p (p.remove last)) := by
  rw [addNew_full hl, hlast]
  exact if_pos hb

theorem addNew_turnedAway (hl : 64 ≤ p.queue.length)
    (hlast : ∀ last, p.lastUnpinned? c = some last → e.before c last = false) :
    p.addNew c e = (p, [.raised .planFull e.element]) := by
  rw [addNew_full hl]
  cases h : p.lastUnpinned? c with
  | none => rfl
  | some last => exact if_neg (Bool.eq_false_iff.1 (hlast last h))

/-! ### The notices -/

theorem milestoneNotice_known (h : p.entry? n.element ≠ none) :
    p.milestoneNotice (some c) n =
      ((p.update n.element fun e =>
        { e with reason := n.reason, generation := n.generation, due := n.due }).reorder c, []) := by
  obtain ⟨e, he⟩ := Option.ne_none_iff_exists'.1 h
  simp only [PlanUnit.milestoneNotice, he]

theorem milestoneNotice_new (h : p.entry? n.element = none) :
    p.milestoneNotice (some c) n = p.addNew c n.entry := by
  simp only [PlanUnit.milestoneNotice, h]

theorem projectionNotice_idle {clock : Option Nat} {due : Projection} (h : clock = none ∨ p.entry? i = none) :
    p.projectionNotice clock i due = p := by
  unfold PlanUnit.projectionNotice
  split
  · rename_i he
    rcases h with h | h
    · cases h
    · exact nomatch he.symm.trans h
  · rfl
  · rfl

theorem projectionNotice_known {due : Projection} (h : p.entry? i ≠ none) :
    p.projectionNotice (some c) i due = (p.update i fun e => { e with due := due }).reorder c := by
  obtain ⟨e, he⟩ := Option.ne_none_iff_exists'.1 h
  simp only [PlanUnit.projectionNotice, he]

theorem removalNotice_none (h : p.entry? i = none) : p.removalNotice i = (p, []) := by
  rw [PlanUnit.removalNotice, h]

theorem removalNotice_known (h : p.entry? i = some e) :
    p.removalNotice i = (p.remove e, settleEnd p (p.remove e)) := by
  rw [PlanUnit.removalNotice, h]

theorem costNotice_none (h : p.entry? i = none) : p.costNotice i cost = (p, []) := by
  rw [PlanUnit.costNotice, h]

theorem costNotice_free (h : p.entry? i = some e) (hw : e.window = none) :
    p.costNotice i cost = (p.update i fun e => { e with cost := cost }, []) := by
  simp only [PlanUnit.costNotice, h, hw]

theorem costNotice_fits (h : p.entry? i = some e) (hk : e.window = some k) (hw : p.window k = some w)
    (hfit : w.used - e.cost + cost ≤ w.capacity) :
    p.costNotice i cost =
      ({ (p.update i fun e => { e with cost := cost }) with
          windows := onWindow (Window.charge cost e.pinned) (e.refunded p.windows) k }, []) := by
  simp only [PlanUnit.costNotice, h, hk, PlanUnit.fitsWith, hw, hfit, decide_true, if_true]

theorem costNotice_leaves (h : p.entry? i = some e) (hk : e.window = some k) (hw : p.window k = some w)
    (hfit : w.capacity < w.used - e.cost + cost) :
    p.costNotice i cost =
      ({ (p.update i fun e => { e.offWindow with unplaced := true, cost := cost }) with
          windows := e.refunded p.windows },
        [.conditionSet .planUnplaced i (!p.anyUnplaced)]) := by
  simp only [PlanUnit.costNotice, h, hk, PlanUnit.fitsWith, hw, Nat.not_le.2 hfit, decide_false, Bool.false_eq_true,
    if_false]

/-- Settles O27: each notice by the element's entry, a milestone's also by the length of the queue, a cost's by the
entry's window. -/
theorem planNotices : Obligations.PlanNotices := by
  intro p entryOf updated without settled
  have left : ∀ e, settleEnd p (p.remove e) = settled (without e.element) := fun e => by rw [remove_eq]; rfl
  refine ⟨fun n => rfl, fun c n => ⟨fun he => ?known, fun he hl => ?joins, fun last he hl hlast hb => ?displaces,
      fun he hl hlast => ?turnedAway⟩,
    fun clock i due => ⟨projectionNotice_idle, fun c hc he => ?projection⟩,
    fun i => ⟨removalNotice_none, fun e he => ?removal⟩,
    fun i cost => ⟨costNotice_none, fun e he => ⟨fun hw => ?free,
      fun k w hk hw => ⟨fun hfit => ?fits, fun hfit => ?leaves⟩⟩⟩⟩
  case known => rw [milestoneNotice_known he, update_eq]; rfl
  case joins => rw [milestoneNotice_new he, addNew_joins hl]; rfl
  case displaces => rw [milestoneNotice_new he, addNew_displaces (e := n.entry) hl hlast hb, left, remove_eq]; rfl
  case turnedAway => rw [milestoneNotice_new he, addNew_turnedAway (e := n.entry) hl hlast]; rfl
  case projection => rw [hc, projectionNotice_known he, update_eq]; rfl
  case removal =>
    obtain ⟨-, hel⟩ := mem_of_entry? he
    rw [removalNotice_known he, left, remove_eq, hel]
  case free => rw [costNotice_free he hw, update_eq]
  case fits => rw [costNotice_fits he hk hw hfit, recharged hk hw, update_eq]
  case leaves => rw [costNotice_leaves he hk hw hfit, update_eq]; rfl

end Sys2Proof.Machine
end

section
/-! What a replan may change, the order of the queue, when a window takes an entry, and the placement of one entry
(R147, R148, R151). -/

namespace Sys2Proof.Machine

variable {s : State} {a b e : PlanEntry} {q : List PlanEntry} {ws : Vector (Option Window) 8} {c k : Nat} {w : Window}

/-! ### The order (R147) -/

theorem before_iff :
    a.before c b = true ↔
      a.due.rank < b.due.rank ∨ a.due.rank = b.due.rank ∧
        (a.due.minuteAt c < b.due.minuteAt c ∨ a.due.minuteAt c = b.due.minuteAt c ∧ a.element < b.element) := by
  simp only [PlanEntry.before, Bool.or_eq_true, Bool.and_eq_true, decide_eq_true_eq, beq_iff_eq]

theorem not_before_iff :
    a.before c b = false ↔
      b.due.rank < a.due.rank ∨ b.due.rank = a.due.rank ∧
        (b.due.minuteAt c < a.due.minuteAt c ∨ b.due.minuteAt c = a.due.minuteAt c ∧ b.element ≤ a.element) := by
  rw [← Bool.not_eq_true, before_iff]
  omega

theorem before_asymm (h : a.before c b = true) : b.before c a = false := by
  rw [before_iff] at h
  rw [not_before_iff]
  omega

theorem not_before_trans (hab : b.before c a = false) (hbe : e.before c b = false) : e.before c a = false := by
  rw [not_before_iff] at *
  omega

theorem insertEntry_pairwise (e : PlanEntry) (h : q.Pairwise fun a b => b.before c a = false) :
    (insertEntry c e q).Pairwise fun a b => b.before c a = false := by
  induction q with
  | nil => exact List.pairwise_singleton _ e
  | cons x q ih =>
    obtain ⟨hx, hq⟩ := List.pairwise_cons.1 h
    rw [insertEntry]
    split
    · rename_i hbefore
      have hxe := before_asymm hbefore
      exact List.pairwise_cons.2 ⟨List.forall_mem_cons.2 ⟨hxe, fun y hy => not_before_trans hxe (hx y hy)⟩, h⟩
    · rename_i hbefore
      refine List.pairwise_cons.2 ⟨fun y hy => ?_, ih hq⟩
      rcases List.mem_cons.1 ((insertEntry_perm c e q).mem_iff.1 hy) with rfl | hy
      · exact Bool.eq_false_iff.2 hbefore
      · exact hx y hy

theorem orderEntries_pairwise (c : Nat) (q : List PlanEntry) :
    (orderEntries c q).Pairwise fun a b => b.before c a = false := by
  induction q with
  | nil => exact .nil
  | cons e q ih => exact insertEntry_pairwise e ih

/-- The minute at which an entry is due, NOW as the clock's (R147). -/
def Projection.dueMinute (c : Nat) : Projection → Option Nat
  | .minute m => some m
  | .now => some c
  | .never => none
  | .unknown => none

theorem rank_of_dueMinute {d : Projection} {m : Nat} (h : d.dueMinute c = some m) : d.rank = 0 ∧ d.minuteAt c = m := by
  cases d <;> cases h <;> exact ⟨rfl, rfl⟩

/-- Entries with minutes stand by minute, then element. -/
theorem before_of_minutes {m n : Nat} (ha : a.due.dueMinute c = some m) (hb : b.due.dueMinute c = some n) :
    a.before c b = true ↔ m < n ∨ m = n ∧ a.element < b.element := by
  obtain ⟨har, ham⟩ := rank_of_dueMinute ha
  obtain ⟨hbr, hbm⟩ := rank_of_dueMinute hb
  simp only [before_iff, har, hbr, ham, hbm, Nat.lt_irrefl, false_or, true_and]

theorem before_of_rank (h : a.due.rank < b.due.rank) : a.before c b = true ∧ b.before c a = false :=
  ⟨before_iff.2 (.inl h), not_before_iff.2 (.inl h)⟩

/-- Entries alike without minutes stand by element. -/
theorem before_of_alike (h : a.due = .never ∧ b.due = .never ∨ a.due = .unknown ∧ b.due = .unknown) :
    a.before c b = true ↔ a.element < b.element := by
  rcases h with ⟨ha, hb⟩ | ⟨ha, hb⟩ <;>
    simp only [before_iff, ha, hb, Nat.lt_irrefl, false_or, true_and]

/-! ### Placement (R151) -/

theorem takes_iff :
    w.takes c e = true ↔
      c < w.start + w.length ∧ (e.due = .now ∨ e.due = .never ∨ ∃ m, e.due = .minute m ∧ w.start ≤ m) ∧
        e.cost ≤ w.capacity - w.used := by
  simp only [Window.takes, Bool.and_eq_true, decide_eq_true_eq, and_assoc]
  refine and_congr_right fun _ => and_congr_left fun _ => ?_
  cases e.due <;> simp

/-- The earliest window met so far stays where no later one starts before it. -/
theorem foldl_earlier_keeps {x : Window × Nat} :
    ∀ {l : List (Option Window × Nat)}, (∀ v j, (some v, j) ∈ l → x.1.start ≤ v.start) →
      l.foldl earlier (some x) = some x
  | [], _ => rfl
  | (none, j) :: l, h => foldl_earlier_keeps (l := l) fun v j hv => h v j (List.mem_cons_of_mem _ hv)
  | (some v, j) :: l, h => by
    have hv : earlier (some x) (some v, j) = some x := if_neg (Nat.not_lt.2 (h v j List.mem_cons_self))
    rw [List.foldl_cons, hv]
    exact foldl_earlier_keeps fun v j hv => h v j (List.mem_cons_of_mem _ hv)

/-- A pass over slots in order ends on the window that is first by start and then slot. -/
theorem foldl_earlier_first {w : Window} {k : Nat} :
    ∀ {l : List (Option Window × Nat)} {best : Option (Window × Nat)},
      (l.map Prod.snd).Pairwise (· < ·) → (some w, k) ∈ l →
      (∀ v j, (some v, j) ∈ l → w.start < v.start ∨ w.start = v.start ∧ k ≤ j) →
      (∀ b, best = some b → w.start < b.1.start) → l.foldl earlier best = some (w, k)
  | [], _, _, hk, _, _ => nomatch hk
  | (x, i) :: l, best, hl, hk, hfirst, hbest => by
    obtain ⟨hi, hl⟩ := List.pairwise_cons.1 hl
    have later : ∀ v j, (some v, j) ∈ l → w.start < v.start ∨ w.start = v.start ∧ k ≤ j :=
      fun v j hv => hfirst v j (List.mem_cons_of_mem _ hv)
    rw [List.foldl_cons]
    rcases List.mem_cons.1 hk with heq | hk
    · obtain ⟨rfl, rfl⟩ := Prod.mk.inj heq
      have htaken : earlier best (some w, k) = some (w, k) := by
        cases best with
        | none => rfl
        | some b => exact if_pos (hbest b rfl)
      rw [htaken]
      exact foldl_earlier_keeps fun v j hv => (later v j hv).elim Nat.le_of_lt fun h => Nat.le_of_eq h.1
    · refine foldl_earlier_first hl hk later fun b hb => ?_
      have hik : i < k := hi k (List.mem_map_of_mem hk)
      cases x with
      | none => exact hbest b (by cases best <;> exact hb)
      | some v =>
        have hv : w.start < v.start := (hfirst v i List.mem_cons_self).resolve_right fun h => Nat.not_le.2 hik h.2
        rcases foldl_earlier_mem (l := [(some v, i)]) hb with hb | hb
        · exact hbest b hb
        · obtain ⟨hbv, -⟩ := Prod.mk.inj (List.mem_singleton.1 hb)
          exact Option.some.inj hbv ▸ hv

/-- The slots with the windows that take an entry. -/
def takers (c : Nat) (e : PlanEntry) (ws : Vector (Option Window) 8) : List (Option Window × Nat) :=
  (tenum ws).map fun x => (x.1.filter (Window.takes c e), x.2)

theorem mem_takers {v : Window} {j : Nat} :
    (some v, j) ∈ takers c e ws ↔ tget ws j none = some v ∧ v.takes c e = true := by
  simp only [takers, List.mem_map, Prod.mk.injEq]
  constructor
  · rintro ⟨⟨x, i⟩, hx, hfilter, rfl⟩
    obtain ⟨hx', ht⟩ := Option.filter_eq_some_iff.1 hfilter
    exact ⟨((mem_tenum none).1 hx).2.trans hx', ht⟩
  · rintro ⟨hv, ht⟩
    exact ⟨(some v, j), (mem_tenum none).2 ⟨window_lt (p := ⟨ws, []⟩) hv, hv⟩,
      Option.filter_eq_some_iff.2 ⟨rfl, ht⟩, rfl⟩

theorem takers_slots (c : Nat) (e : PlanEntry) (ws : Vector (Option Window) 8) :
    ((takers c e ws).map Prod.snd).Pairwise (· < ·) := by
  rw [takers, List.map_map]
  exact (tenum_map_snd ws).symm ▸ List.pairwise_lt_range

theorem chooseWindow_first (hw : tget ws k none = some w) (ht : w.takes c e = true)
    (hfirst : ∀ j v, tget ws j none = some v → v.takes c e = true →
      w.start < v.start ∨ w.start = v.start ∧ k ≤ j) : chooseWindow c e ws = some k := by
  refine congrArg (Option.map Prod.snd) (foldl_earlier_first (takers_slots c e ws) (mem_takers.2 ⟨hw, ht⟩)
    (fun v j hv => ?_) fun _ hb => absurd hb (Option.some_ne_none _).symm)
  obtain ⟨hv, hvt⟩ := mem_takers.1 hv
  exact hfirst j v hv hvt

theorem chooseWindow_none (h : ∀ k w, tget ws k none = some w → w.takes c e = false) : chooseWindow c e ws = none := by
  cases hk : chooseWindow c e ws with
  | none => rfl
  | some k =>
    obtain ⟨w, hw, ht⟩ := takes_of_chooseWindow hk
    exact nomatch (h k w hw).symm.trans ht

theorem placeEntry_left (h : e.pinned = true ∨ e.due = .unknown) : placeEntry c ws e = (ws, e) :=
  if_pos (by rwa [Bool.or_eq_true, beq_iff_eq])

theorem placeEntry_by_choice (hp : e.pinned = false) (hd : e.due ≠ .unknown) :
    placeEntry c ws e =
      match chooseWindow c e ws with
      | some k => (onWindow (Window.charge e.cost false) ws k, { e with window := some k })
      | none => (ws, { e with unplaced := true }) := by
  refine if_neg ?_
  rw [Bool.or_eq_true, beq_iff_eq, hp]
  exact fun h => h.elim Bool.false_ne_true hd

/-! ### A replan with the clock unset (R148) -/

theorem replan_unset (h : s.clock = none) : s.replan = s.takePlan s.plan.emptied ∧ s.replanOf.cut = 0 := by
  rw [State.replan, State.replanOf, h]
  exact ⟨rfl, rfl⟩

/-- Settles O25: the frame by definition, the emptied plan by `takePlan_emptied`, the order by insertion into a queue in
order, and the placement by the first of the windows that take the entry. -/
theorem planRebuilt : Obligations.PlanRebuilt := by
  refine ⟨fun s => ⟨rfl, takeAll_mask _ _, fun hc => ?_⟩,
    fun c q => ⟨orderEntries_perm c q, orderEntries_pairwise c q⟩, fun c a b => ?_, fun c e w => takes_iff,
    fun c ws e => ⟨placeEntry_left, fun hp hd => ⟨fun k w hw ht hfirst => ?_, fun hnone => ?_⟩⟩⟩
  · obtain ⟨hreplan, hcut⟩ := replan_unset hc
    rw [hreplan, takePlan_emptied]
    exact ⟨rfl, hcut, rfl⟩
  · intro minute
    have hminute : ∀ d, minute d = d.dueMinute c := fun d => by cases d <;> rfl
    simp only [hminute]
    refine ⟨fun m n => before_of_minutes, fun m ha hb => before_of_rank ?_, fun ha hb => before_of_rank ?_,
      before_of_alike⟩
    · rw [(rank_of_dueMinute ha).1]
      rcases hb with hb | hb <;> rw [hb] <;> decide
    · rw [ha, hb]
      decide
  · rw [placeEntry_by_choice hp hd, chooseWindow_first hw ht hfirst]
    exact Prod.ext (onWindow_window (p := ⟨ws, []⟩) _ hw) rfl
  · rw [placeEntry_by_choice hp hd, chooseWindow_none hnone]

end Sys2Proof.Machine
end

section
/-! A replan with the clock set, step by step: expiry, candidates, the cut, pins, placement, companions, PLAN_UNPLACED
(R149 to R153). -/

namespace Sys2Proof.Machine

variable {s : State} {p : PlanUnit} {e : PlanEntry} {f : Fitting} {x : Element} {es : Vector Element 240}
  {c k i percent : Nat} {w : Window}

/-! ### Expiry (R149) -/

theorem inEnded_eq (p : PlanUnit) (c : Nat) (e : PlanEntry) :
    p.inEnded c e =
      match e.window.bind p.window with
      | some w => decide (w.start + w.length ≤ c)
      | none => false := by
  unfold PlanUnit.inEnded
  cases e.window with
  | none => rfl
  | some k =>
    dsimp only [Option.bind_some]
    cases p.window k <;> rfl

theorem dropEnded_windows (p : PlanUnit) (c : Nat) :
    (p.dropEnded c).windows =
      tmap (fun x => x.filter fun w => !decide (w.start + w.length ≤ c)) p.windows := by
  refine congrArg (fun g => tmap g p.windows) (funext fun x => ?_)
  cases x with
  | none => rfl
  | some w => by_cases h : w.start + w.length ≤ c <;> simp [Window.ended, Window.endMinute, Option.filter, h]

/-! ### The whole (R148) -/

theorem planFullOf_eq (cut : List PlanEntry) :
    planFullOf cut = match cut with | [] => [] | e :: _ => [.raised .planFull e.element] := by
  cases cut <;> rfl

theorem replanOf_set (h : s.clock = some c) :
    s.replanOf =
      { unit := rebuild c s.options.horizon s.options.companionPercent s.elements (s.plan.dropEnded c)
        cut := (cutOf (candidates c s.options.horizon s.elements (s.plan.dropEnded c).queue)).length
        alerts := s.plan.missed c ++ planFullOf (cutOf (candidates c s.options.horizon s.elements
            (s.plan.dropEnded c).queue)) ++
          settleReplan s.plan.anyUnplaced
            (rebuild c s.options.horizon s.options.companionPercent s.elements (s.plan.dropEnded c)) } := by
  rw [State.replanOf, h]
  rfl

/-! ### Candidates (R149) -/

theorem candidateReason_eq (f : Fitting) (top : Nat) (pinned : Bool) :
    f.candidateReason top pinned =
      match f.state with
      | .advised => some .advised
      | .due => some .due
      | .limit => some .limit
      | .breakIn | .service =>
          if (match f.projection with
              | .minute m => decide (m ≤ top)
              | .now | .never | .unknown => false) || pinned then some .horizon else none := by
  have hdue : f.projection.atOrBefore top = match f.projection with
      | .minute m => decide (m ≤ top)
      | .now | .never | .unknown => false := by cases f.projection <;> rfl
  rw [Fitting.candidateReason, hdue]
  cases f.state <;> rfl

theorem candidates_eq_range (c horizon : Nat) (es : Vector Element 240) (old : List PlanEntry) :
    candidates c horizon es old =
      orderEntries c ((List.range 240).filterMap fun i => candidate (c + horizon) old (tget es i .vacant, i)) := by
  rw [candidates, tenum_eq_range es .vacant, List.filterMap_map]
  rfl

/-! ### Companions (R152) -/

theorem group?_eq (e : Element) :
    e.group? = match e.position with
      | .assigned f => f.settings.group
      | .vacant | .suspect => none := by
  obtain ⟨n, _ | _ | f⟩ := e <;> rfl

theorem companionsOf_none (h : e.window = none ∨ (tget es e.element .vacant).group? = none) :
    companionsOf c percent es p e = p := by
  unfold companionsOf
  split
  · rename_i hw hg
    rcases h with h | h
    · exact nomatch hw.symm.trans h
    · exact nomatch hg.symm.trans h
  · rfl

theorem companionsOf_group {g : Nat} (hw : e.window = some k) (hg : (tget es e.element .vacant).group? = some g) :
    companionsOf c percent es p e =
      ((List.range 240).filter fun i => (tget es i .vacant).group? == some g).foldl
        (fun p i => addCompanion c percent k p (tget es i .vacant, i)) p := by
  simp only [companionsOf, hw, hg]
  rw [tenum_eq_range es .vacant, List.filter_map, List.foldl_map]
  rfl

/-- The conditions of R152 on an element that is not in the queue, for a window with room. -/
def Fitting.joins (f : Fitting) (percent i : Nat) (p : PlanUnit) (w : Window) : Prop :=
  p.queue.all (fun q => q.element != i) = true ∧ (f.state = .breakIn ∨ f.state = .service ∨ f.state = .advised) ∧
    percent * f.settings.due ≤ 100 * f.accumulator ∧ f.settings.cost ≤ w.capacity - w.used ∧ p.queue.length < 64

theorem joins_iff :
    ((p.entry? i).isNone && f.companionWear percent && f.settings.cost ≤ w.remaining &&
      p.queue.length < queueLimit) = true ↔ f.joins percent i p w := by
  simp only [Fitting.joins, Fitting.companionWear, Bool.and_eq_true, Bool.or_eq_true, beq_iff_eq, decide_eq_true_eq,
    Option.isNone_iff_eq_none, entry?_eq_none, List.all_eq_true, bne_iff_ne, and_assoc, or_assoc]
  rfl

theorem addCompanion_joins (hx : x.position = .assigned f) (hw : p.window k = some w) (hj : f.joins percent i p w) :
    addCompanion c percent k p (x, i) =
      { windows := onWindow (Window.charge f.settings.cost false) p.windows k
        queue := insertEntry c
          { element := i, generation := x.generation, due := f.projection, reason := .companion, window := some k,
            pinned := false, unplaced := false, cost := f.settings.cost } p.queue } := by
  simp only [addCompanion, hx, hw, joins_iff.2 hj, if_true]

theorem addCompanion_stays (hx : x.position = .assigned f)
    (hj : ∀ w, p.window k = some w → ¬ f.joins percent i p w) : addCompanion c percent k p (x, i) = p := by
  unfold addCompanion
  split
  · rename_i g w hg hw
    obtain rfl : f = g := Position.assigned.inj (hx.symm.trans hg)
    exact if_neg fun h => hj w hw (joins_iff.1 h)
  · rfl

/-- Settles O26: the replan by `replanOf_set` with the expiry written out, the candidates and companions as passes over
the element indexes, and the conditions of a companion by `joins_iff`. -/
theorem replanSteps : Obligations.ReplanSteps := by
  refine ⟨fun s c hc => ?whole, fun c horizon es old => ?candidates,
    fun ws e rest => ⟨rfl, fun k hp hw => chargePins_pinned hp hw rest ws, fun h => chargePins_other h rest ws⟩,
    fun c ws e rest => ⟨rfl, rfl⟩, fun c percent es p e => ?companions⟩
  case whole =>
    intro ended expired open? zeroed order pins others queue placed built held cut
    have hended : s.plan.inEnded c = ended := funext (inEnded_eq s.plan c)
    have hqueue : (s.plan.dropEnded c).queue = expired := by
      simp only [PlanUnit.dropEnded, hended]
      rfl
    have hbuilt : rebuild c s.options.horizon s.options.companionPercent s.elements (s.plan.dropEnded c) = built := by
      simp only [rebuild, hqueue, dropEnded_windows]
      rfl
    have hcut : cutOf (candidates c s.options.horizon s.elements expired) = cut := rfl
    have hmissed : s.plan.missed c = (s.plan.queue.filter ended).map fun e => .raised .workMissed e.element := by
      rw [PlanUnit.missed, hended]
    rw [State.replan, replanOf_set hc, hqueue, hcut, hbuilt, hmissed, planFullOf_eq]
    exact ⟨rfl, rfl⟩
  case candidates =>
    rw [candidates_eq_range]
    refine congrArg (fun g => orderEntries c ((List.range 240).filterMap g)) (funext fun i => ?_)
    unfold candidate
    obtain ⟨generation, _ | _ | f⟩ := tget es i .vacant
    · rfl
    · rfl
    · exact congrArg (Option.map _) (candidateReason_eq f (c + horizon) _)
  case companions =>
    intro groupOf
    have hgroup : ∀ i, groupOf i = (tget es i .vacant).group? := fun i => (group?_eq _).symm
    simp only [hgroup]
    refine ⟨companionsOf_none, fun k g => companionsOf_group, fun k i x f hx => ⟨fun w hw hj => ?_,
      addCompanion_stays hx⟩, fun x rest => ⟨rfl, rfl⟩⟩
    rw [addCompanion_joins hx hw hj, onWindow_window _ hw]
    rfl

end Sys2Proof.Machine
end

section
/-! ADD WINDOW and REMOVE WINDOW: their refusals in order, the slot taken or freed, and the replan (R143, R144). -/

namespace Sys2Proof.Machine

variable {s : State} {start length capacity c k : Nat} {w : Window} {p : PlanUnit}

/-! ### ADD WINDOW (R143) -/

theorem windowOk_iff :
    windowOk c start length capacity = true ↔
      15 ≤ length ∧ length ≤ 1440 ∧ 1 ≤ capacity ∧ capacity ≤ 32 ∧ start + length ≤ 4294967294 ∧
        c < start + length := by
  simp only [windowOk, maxMinute, Bool.and_eq_true, decide_eq_true_eq]
  omega

theorem freeSlot?_eq_none (h : ∀ k < 8, p.window k ≠ none) : p.freeSlot? = none :=
  List.find?_eq_none.2 fun k hk => by simpa using h k (List.mem_range.1 hk)

theorem freeSlot?_eq_some (hk : k < 8) (hfree : p.window k = none) (hlow : ∀ j < k, p.window j ≠ none) :
    p.freeSlot? = some k :=
  List.find?_range_eq_some.2 ⟨by rw [hfree]; rfl, List.mem_range.2 hk, fun j hj => by
    simpa [Option.isSome_iff_ne_none] using hlow j hj⟩

theorem addWindowWork_unset (h : s.clock = none) : addWindowWork start length capacity s = refuse s .clockUnset := by
  rw [addWindowWork, h]

theorem addWindowWork_badValue (h : s.clock = some c)
    (hv : length < 15 ∨ 1440 < length ∨ capacity < 1 ∨ 32 < capacity ∨ 4294967294 < start + length ∨
      start + length ≤ c) : addWindowWork start length capacity s = refuse s .badValue := by
  rw [addWindowWork, h]
  refine if_neg fun hok => ?_
  rw [windowOk_iff] at hok
  omega

theorem addWindowWork_ok (h : s.clock = some c) (hok : windowOk c start length capacity = true) :
    addWindowWork start length capacity s =
      match s.plan.freeSlot? with
      | some slot => accept (s.addWindow slot start length capacity) (u8 slot)
      | none => refuse s .noRoom := by
  rw [addWindowWork, h]
  exact if_pos hok

/-! ### REMOVE WINDOW (R144) -/

theorem removeWindow_eq (p : PlanUnit) (k : Nat) :
    p.removeWindow k =
      { windows := tset p.windows k none
        queue := p.queue.map fun e =>
          if e.window = some k then { e with window := none, pinned := false } else e } := by
  simp only [PlanUnit.removeWindow, beq_iff_eq]
  rfl

theorem assignedTo_eq (p : PlanUnit) (k : Nat) : p.assignedTo k = (p.inWindow k).length :=
  List.countP_eq_length_filter

theorem removeWindowWork_notFound (hk : k ≤ 7) (hw : s.plan.window k = none) :
    removeWindowWork k s = refuse s .notFound := by
  rw [removeWindowWork, if_neg (Nat.not_lt.2 hk), hw]

theorem removeWindowWork_accepts (hk : k ≤ 7) (hw : s.plan.window k = some w) :
    removeWindowWork k s =
      accept (s.setPlan (s.plan.removeWindow k)).replan (u8 k ++ u8 (s.plan.assignedTo k)) := by
  rw [removeWindowWork, if_neg (Nat.not_lt.2 hk), hw]

/-- Settles O23: the two works by the clock, the values and the slots. -/
theorem windowRequests : Obligations.WindowRequests := by
  refine fun s code => ⟨fun start length capacity h => ⟨fun hc => request_refuses h (addWindowWork_unset hc),
      fun c hc hv => request_refuses h (addWindowWork_badValue hc hv),
      fun c hc h15 h1440 h1 h32 hend hlate => ⟨fun hfull => ?noRoom, fun k hk hfree hlow => ?added⟩⟩,
    fun k h => ⟨fun hk => request_refuses h (if_pos hk),
      fun hk hw => request_refuses h (removeWindowWork_notFound hk hw), fun w hk hw => ?removed⟩⟩
  case noRoom =>
    refine request_refuses h ?_
    rw [addWindowWork_ok hc (windowOk_iff.2 ⟨h15, h1440, h1, h32, hend, hlate⟩), freeSlot?_eq_none hfull]
  case added =>
    refine request_accepts h ?_
    rw [addWindowWork_ok hc (windowOk_iff.2 ⟨h15, h1440, h1, h32, hend, hlate⟩), freeSlot?_eq_some hk hfree hlow]
    rfl
  case removed =>
    refine request_accepts h ?_
    rw [removeWindowWork_accepts hk hw, removeWindow_eq, assignedTo_eq]
    rfl

end Sys2Proof.Machine
end

section
/-! PIN, UNPIN and REPLAN: refusals, replies, and what PIN and UNPIN do to the plan before their replan (R158 to R160;
notes/assumptions/20.md, 22.md). -/

namespace Sys2Proof.Machine

variable {s : State} {p seated : PlanUnit} {e old last x : PlanEntry} {f : Fitting} {c i k cost : Nat} {w : Window}
  {displaced : List AlertEvent} {l : List PlanEntry}

/-! ### PIN's refusals (R158) -/

theorem pinWork_badValue (h : 239 < i ∨ 7 < k) : pinWork i k s = refuse s .badValue :=
  if_pos (by rwa [Bool.or_eq_true, decide_eq_true_eq, decide_eq_true_eq])

theorem pinWork_inRange (hi : i ≤ 239) (hk : k ≤ 7) :
    pinWork i k s =
      match s.clock, s.fitting? i, s.plan.window k with
      | none, _, _ => refuse s .clockUnset
      | some _, none, _ => refuse s .elementState
      | some _, some _, none => refuse s .notFound
      | some c, some f, some w =>
          if s.plan.pinFits i k f.settings.cost w then accept (s.pinElement c i k f) (u8 i ++ u8 k)
          else refuse s .noRoom := by
  refine if_neg ?_
  rw [Bool.or_eq_true, decide_eq_true_eq, decide_eq_true_eq]
  exact fun h => h.elim (Nat.not_lt.2 hi) (Nat.not_lt.2 hk)

theorem pinWork_unset (hi : i ≤ 239) (hk : k ≤ 7) (hc : s.clock = none) :
    pinWork i k s = refuse s .clockUnset := by
  rw [pinWork_inRange hi hk, hc]

theorem pinWork_elementState (hi : i ≤ 239) (hk : k ≤ 7) (hc : s.clock ≠ none) (hf : s.fitting? i = none) :
    pinWork i k s = refuse s .elementState := by
  obtain ⟨c, hc⟩ := Option.ne_none_iff_exists'.1 hc
  rw [pinWork_inRange hi hk, hc, hf]

theorem pinWork_notFound (hi : i ≤ 239) (hk : k ≤ 7) (hc : s.clock ≠ none) (hf : s.fitting? i ≠ none)
    (hw : s.plan.window k = none) : pinWork i k s = refuse s .notFound := by
  obtain ⟨c, hc⟩ := Option.ne_none_iff_exists'.1 hc
  obtain ⟨f, hf⟩ := Option.ne_none_iff_exists'.1 hf
  rw [pinWork_inRange hi hk, hc, hf, hw]

theorem pinWork_tested (hi : i ≤ 239) (hk : k ≤ 7) (hc : s.clock = some c) (hf : s.fitting? i = some f)
    (hw : s.plan.window k = some w) :
    pinWork i k s =
      if s.plan.pinFits i k f.settings.cost w then accept (s.pinElement c i k f) (u8 i ++ u8 k)
      else refuse s .noRoom := by
  rw [pinWork_inRange hi hk, hc, hf, hw]

/-- An element that is not pinned needs room beside the window's pins, and fewer than 64 pins. -/
theorem pinFits_unpinned (h : p.pinnedEntry? i = none) :
    p.pinFits i k cost w = true ↔ w.pinnedLoad + cost ≤ w.capacity ∧ p.pinCount < 64 := by
  simp only [PlanUnit.pinFits, h, Bool.and_eq_true, decide_eq_true_eq]

/-- A pinned element needs room beside the pins of a window that is not its own (notes/assumptions/20.md). -/
theorem pinFits_pinned (h : p.pinnedEntry? i = some e) :
    p.pinFits i k cost w = true ↔ e.window = some k ∨ w.pinnedLoad + cost ≤ w.capacity := by
  simp only [PlanUnit.pinFits, h, Bool.or_eq_true, beq_iff_eq, decide_eq_true_eq]

/-! ### UNPIN (R159) -/

theorem unpin_eq (e : PlanEntry) (p : PlanUnit) :
    p.unpin e =
      { windows := match e.window with
          | some k => onWindow (fun w => { w with pinnedLoad := w.pinnedLoad - e.cost }) p.windows k
          | none => p.windows
        queue := p.queue.map fun x => if x.element = e.element then { x with pinned := false } else x } :=
  congrArg (fun q : PlanUnit => (⟨_, q.queue⟩ : PlanUnit)) (update_eq p e.element _)

theorem unpinWork_notFound (hi : i ≤ 239) (h : s.plan.pinnedEntry? i = none) :
    unpinWork i s = refuse s .notFound := by
  rw [unpinWork, if_neg (Nat.not_lt.2 hi), h]

theorem unpinWork_accepts (hi : i ≤ 239) (h : s.plan.pinnedEntry? i = some e) :
    unpinWork i s = accept (s.setPlan (s.plan.unpin e)).replan (u8 i) := by
  rw [unpinWork, if_neg (Nat.not_lt.2 hi), h]

/-! ### What an accepted PIN does to the plan (R158; notes/assumptions/22.md) -/

/-- The window's unpinned entries make room for a cost, and the window is charged with it as pinned. -/
def PlanUnit.chargePin (k cost : Nat) (p : PlanUnit) : PlanUnit :=
  let roomy := makeRoom k cost p (p.unpinnedIn k)
  { roomy with windows := onWindow (Window.charge cost true) roomy.windows k }

theorem pin_of_seat (hs : (p.reorder c).seatPin c e k = (seated, displaced))
    (hc : seated.entry? e.element = some x) :
    p.pin c e k = (seated.chargePin k x.cost, displaced ++ settleEnd p (seated.chargePin k x.cost)) := by
  simp only [PlanUnit.pin, hs, hc]
  rfl

theorem seatPin_moves (h : p.entry? e.element = some old) :
    p.seatPin c e k =
      ({ (p.update e.element (PlanEntry.seatedAt k)) with windows := old.refunded p.windows }, []) := by
  rw [PlanUnit.seatPin, h]
  rfl

theorem seatPin_joins (h : p.entry? e.element = none) (hl : p.queue.length < 64) :
    p.seatPin c e k = (p.insert c (e.seatedAt k), []) := by
  rw [PlanUnit.seatPin, h]
  exact if_pos hl

theorem seatPin_displaces (h : p.entry? e.element = none) (hl : 64 ≤ p.queue.length)
    (hlast : p.lastUnpinned? c = some last) :
    p.seatPin c e k = ((p.remove last).insert c (e.seatedAt k), [.raised .planFull last.element]) := by
  rw [PlanUnit.seatPin, h]
  refine (if_neg (Nat.not_lt.2 hl)).trans ?_
  rw [hlast]
  rfl

/-- A changed entry is still its element's. -/
theorem entry?_update {g : PlanEntry → PlanEntry} (hg : ∀ x, (g x).element = x.element) (h : p.entry? i = some e) :
    (p.update i g).entry? i = some (g e) := by
  have same : ∀ x : PlanEntry, ((if x.element == i then g x else x).element == i) = (x.element == i) := fun x => by
    split
    · rw [hg]
    · rfl
  simp only [PlanUnit.entry?, PlanUnit.update, List.find?_map, Function.comp_def, same]
  rw [show p.queue.find? (fun x => x.element == i) = some e from h, Option.map_some,
    if_pos (beq_iff_eq.2 (mem_of_entry? h).2)]

/-- A joined entry is its element's where the element had none. -/
theorem entry?_insert (h : ∀ x ∈ p.queue, x.element ≠ e.element) (c : Nat) :
    (p.insert c e).entry? e.element = some e := entry?_of_perm (insert_perm c p e) h

theorem pin_moves (h : (p.reorder c).entry? e.element = some old) :
    p.pin c e k =
      let seated : PlanUnit :=
        { ((p.reorder c).update e.element (PlanEntry.seatedAt k)) with windows := old.refunded p.windows }
      (seated.chargePin k old.cost, settleEnd p (seated.chargePin k old.cost)) :=
  pin_of_seat (x := old.seatedAt k) (seatPin_moves h) (entry?_update (g := PlanEntry.seatedAt k) (fun _ => rfl) h)

theorem pin_joins (h : (p.reorder c).entry? e.element = none) (hl : p.queue.length < 64) :
    p.pin c e k =
      let seated := (p.reorder c).insert c (e.seatedAt k)
      (seated.chargePin k e.cost, settleEnd p (seated.chargePin k e.cost)) :=
  pin_of_seat (x := e.seatedAt k) (seatPin_joins h ((orderEntries_perm c p.queue).length_eq.trans_lt hl))
    (entry?_insert (e := e.seatedAt k) (entry?_eq_none.1 h) c)

theorem pin_displaces (h : (p.reorder c).entry? e.element = none) (hl : 64 ≤ p.queue.length)
    (hlast : (p.reorder c).lastUnpinned? c = some last) :
    p.pin c e k =
      let seated := ((p.reorder c).remove last).insert c (e.seatedAt k)
      (seated.chargePin k e.cost,
        .raised .planFull last.element :: settleEnd p (seated.chargePin k e.cost)) :=
  pin_of_seat (x := e.seatedAt k)
    (seatPin_displaces h (hl.trans_eq (orderEntries_perm c p.queue).length_eq.symm) hlast)
    (entry?_insert (e := e.seatedAt k) (fun x hx => entry?_eq_none.1 h x (List.mem_of_mem_filter hx)) c)

theorem makeRoom_takesOff (hw : p.window k = some w) (hfull : w.capacity - w.used < cost) :
    makeRoom k cost p (x :: l) =
      makeRoom k cost
        { windows := x.refunded p.windows
          queue := p.queue.map fun y =>
            if y.element = x.element then { y with window := none, pinned := false } else y } l := by
  rw [makeRoom_cons, hw]
  refine congrArg (fun q => makeRoom k cost q l) ((if_pos hfull).trans ?_)
  rw [update_eq]
  rfl

theorem makeRoom_leaves (h : ∀ w, p.window k = some w → cost ≤ w.capacity - w.used) :
    makeRoom k cost p (x :: l) = makeRoom k cost p l := by
  rw [makeRoom_cons]
  refine congrArg (fun q => makeRoom k cost q l) ?_
  cases hw : p.window k with
  | none => rfl
  | some w => exact if_neg (Nat.not_lt.2 (h w hw))

/-- Settles O24: the works by their tests, an accepted PIN by how its entry is seated, and the room made entry by
entry. -/
theorem pinRequests : Obligations.PinRequests := by
  refine ⟨fun s code => ⟨fun i k h => ⟨fun hv => request_refuses h (pinWork_badValue hv),
      fun hi hk hc => request_refuses h (pinWork_unset hi hk hc),
      fun hi hk hc hf => request_refuses h (pinWork_elementState hi hk hc hf),
      fun hi hk hc hf hw => request_refuses h (pinWork_notFound hi hk hc hf hw),
      fun c f w hi hk hc hf hw => ?tested⟩,
    fun i h => ⟨fun hi => request_refuses h (if_pos hi), fun hi he => request_refuses h (unpinWork_notFound hi he),
      fun e hi he => ?unpinned⟩,
    fun h => request_accepts h rfl⟩, fun p c e k => ?_⟩
  case tested =>
    have work := pinWork_tested hi hk hc hf hw
    have refused : ¬ s.plan.pinFits i k f.settings.cost w = true → Refuses (.pin i k) s code .noRoom :=
      fun hfit => request_refuses h (work.trans (if_neg hfit))
    have accepted : s.plan.pinFits i k f.settings.cost w = true →
        Replies (.pin i k) s code (s.pinElement c i k f) .ok (u8 i ++ u8 k) :=
      fun hfit => request_accepts h (work.trans (if_pos hfit))
    refine ⟨fun hnone hfull => refused ?_, fun hnone hroom hcount => accepted ?_,
      fun e he => ⟨fun hfit => accepted ((pinFits_pinned he).2 hfit), fun hother hfull => refused ?_⟩⟩
    · rw [pinFits_unpinned hnone]
      omega
    · exact (pinFits_unpinned hnone).2 ⟨hroom, hcount⟩
    · rw [pinFits_pinned he]
      exact fun hfit => hfit.elim hother (Nat.not_le.2 hfull)
  case unpinned =>
    refine request_accepts h ?_
    rw [unpinWork_accepts hi he, unpin_eq]
    rfl
  intro ordered pinnedTo pins
  refine ⟨fun old hold => ?moves, fun hnone => ⟨fun hl => pin_joins hnone hl, fun last hl hlast => ?displaces⟩,
    fun cost => rfl, fun cost x rest => ⟨fun w hw hfull => makeRoom_takesOff hw hfull, makeRoom_leaves⟩,
    fun hw => refunded_of_none hw _, fun j hj => refunded_of_window hj _, fun g j => rfl⟩
  case moves =>
    refine (pin_moves hold).trans ?_
    rw [update_eq]
    rfl
  case displaces =>
    refine (pin_displaces hnone hl hlast).trans ?_
    rw [remove_eq]
    rfl

end Sys2Proof.Machine
end

section
/-! What starts a checkpoint: SAVE, START and STOP by where the checkpoint unit and the engine stand, and the requests
whose reply a start-up follows (R166, R167, R170, R171, R177, R178, R186). -/

namespace Sys2Proof.Machine

variable {s : State} {code : Byte}

/-! ### Answering (R182, R185) -/

/-- A request whose work gives any answer. -/
theorem request_replies {u : State} {i : Instr} {work : State → Answer} {status : Status} {payload : List Byte}
    {after : AfterReply} (h : s.serving i code) (hw : work s = ⟨u, status, payload, after⟩) :
    s.request i work = .next (u.withReply code status payload after).arbitrate := by
  rw [request_serving h, hw]

/-! ### Triggers (R167, R170) -/

theorem triggerCheckpoint_atRest (h : s.ckpt.progress.isWriting = false) : s.triggerCheckpoint = s.beginCheckpoint :=
  if_neg (Bool.eq_false_iff.1 h)

theorem triggerCheckpoint_writing (h : s.ckpt.progress.isWriting = true) :
    s.triggerCheckpoint = { s with ckpt := { s.ckpt with pending := true } } :=
  if_pos h

/-! ### SAVE (R171) -/

theorem saveWork_atRest (h : s.ckpt.progress.isWriting = false) :
    saveWork s = ⟨s.beginCheckpoint, .started, u32 (s.ckpt.sequence + 1).toNat, .nothing⟩ := by
  rw [saveWork, if_neg (Bool.eq_false_iff.1 h), triggerCheckpoint_atRest h]

theorem saveWork_writing (h : s.ckpt.progress.isWriting = true) :
    saveWork s =
      ⟨{ s with ckpt := { s.ckpt with pending := true } }, .inProgress,
        u32 s.ckpt.sequence.toNat ++ u8 s.ckpt.progress.cursor, .nothing⟩ := by
  rw [saveWork, if_pos h, triggerCheckpoint_writing h]

/-- SAVE in hand while a checkpoint runs, by the place of its cursor. -/
theorem save_writing {p : Progress} (h : s.serving .save code) (hp : s.ckpt.progress = p)
    (hw : p.isWriting = true) :
    Replies .save s code { s with ckpt := { s.ckpt with pending := true } } .inProgress
      (u32 s.ckpt.sequence.toNat ++ u8 p.cursor) := by
  subst hp
  exact request_replies h (saveWork_writing hw)

/-- Settles O28: SAVE and a trigger by whether progress is WRITING; the cursor by the record due or being written. -/
theorem saveStartsCheckpoint : Obligations.SaveStartsCheckpoint := by
  intro s atRest waits answers
  have rest : atRest ↔ s.ckpt.progress.isWriting = false := isWriting_eq_false_iff.symm
  refine ⟨fun code h => ⟨fun hr => ?_, fun hp => save_writing h hp rfl, fun i hp => save_writing h hp rfl,
    fun record hp => save_writing h hp rfl, fun i record hp => save_writing h hp rfl⟩, rfl,
    fun hr => triggerCheckpoint_atRest (rest.1 hr), fun hr => triggerCheckpoint_writing ?_⟩
  · exact request_replies h (saveWork_atRest (rest.1 hr))
  · rwa [rest, Bool.not_eq_false] at hr

/-! ### START and STOP (R186) -/

theorem startWork_counting (h : s.engine = .counting) : startWork s = refuse s .wrongState :=
  if_pos (beq_iff_eq.2 h)

theorem startWork_stopped (h : s.engine = .stopped) :
    startWork s = if s.anySuspect then refuse s .elementState else accept { s with engine := .counting } [] := by
  rw [startWork, h]
  rfl

theorem stopWork_counting (h : s.engine = .counting) :
    stopWork s = accept (State.triggerCheckpoint { s with engine := .stopped }) [] :=
  if_pos (beq_iff_eq.2 h)

theorem stopWork_otherwise (h : s.engine ≠ .counting) : stopWork s = refuse s .wrongState :=
  if_neg (beq_iff_eq.not.2 h)

/-! ### WIPE (R178) -/

theorem wipeWork_stopped (h : s.engine = .stopped) : wipeWork s = ⟨s, .started, [], .wipe⟩ :=
  if_pos (beq_iff_eq.2 h)

theorem wipeWork_otherwise (h : s.engine ≠ .stopped) : wipeWork s = refuse s .wrongState :=
  if_neg (beq_iff_eq.not.2 h)

/-- Settles O12: each request's work by the engine state, START's also by whether an element is SUSPECT. -/
theorem engineRequests : Obligations.EngineRequests := by
  intro s code
  refine ⟨fun h => ⟨fun he => request_refuses h (startWork_counting he), fun he hs => request_refuses h ?_,
      fun he hs => request_accepts h ?_⟩,
    fun h => ⟨fun he => request_refuses h (stopWork_otherwise (by simp [he])),
      fun he => request_accepts h (stopWork_counting he)⟩,
    fun h => request_replies h rfl,
    fun h => ⟨fun he => request_replies h (wipeWork_stopped he), fun he => request_refuses h (wipeWork_otherwise he)⟩⟩
  · rw [startWork_stopped he, if_pos hs]
  · rw [startWork_stopped he, if_neg (Bool.eq_false_iff.1 hs)]

end Sys2Proof.Machine
end

section
/-! The record under a checkpoint's cursor: its copy, its write and verification, the next record due, and the end of
the checkpoint (R164, R165, R167, R168; notes/assumptions/4.md, 10.md, 12.md). -/

namespace Sys2Proof.Machine

variable {s : State} {copy : RecordCopy} {result : WriteResult}

/-! ### The end of a checkpoint (R168) -/

/-- A pending checkpoint starts where one has ended. -/
def State.startPending (s : State) : State :=
  if s.ckpt.pending then State.beginCheckpoint { s with ckpt := { s.ckpt with pending := false } } else s

theorem startPending_pending (h : s.ckpt.pending = true) :
    s.startPending = State.beginCheckpoint { s with ckpt := { s.ckpt with pending := false } } := if_pos h

theorem startPending_none (h : s.ckpt.pending = false) : s.startPending = s := if_neg (Bool.eq_false_iff.1 h)

theorem endCheckpoint_done (h : s.ckpt.failedSoFar = 0) :
    s.endCheckpoint =
      State.startPending
        { s with
          ckpt := { s.ckpt with progress := .done, lastFailed := 0 }
          alerts := s.alerts.take (.raised .checkpointDone (s.ckpt.sequence.toNat % 65536)) } := by
  simp only [State.endCheckpoint, if_pos h, State.startPending]

theorem endCheckpoint_failed {noted : Nat} (h : s.ckpt.failedSoFar ≠ 0) (hf : s.ckpt.firstFailed = some noted) :
    s.endCheckpoint =
      State.startPending
        { s with
          ckpt := { s.ckpt with progress := .failed, lastFailed := s.ckpt.failedSoFar }
          alerts := s.alerts.take (.raised .checkpointFail noted) } := by
  simp only [State.endCheckpoint, if_neg h, hf, Option.getD_some, State.startPending]

/-! ### One record (R167, R168) -/

/-- The count and the first slot noted after one record. -/
theorem counted_eq (k : CheckpointUnit) (copy : RecordCopy) (result : WriteResult) :
    k.counted copy result =
      { k with
        failedSoFar := k.failedSoFar + if result = .verified then 0 else 1
        firstFailed :=
          if result = .verified then k.firstFailed else some (k.firstFailed.getD copy.slotNumber) } := by
  unfold CheckpointUnit.counted
  cases result with
  | verified => rfl
  | leftOld | leftBlank | leftInvalid => cases h : k.firstFailed <;> simp

/-- A record's write and verification, from what it leaves in the store, its place, and the number of its slot. -/
theorem finishRecord_eq {store : Store} {place slot : Nat} (hstore : s.store.afterWrite copy result = store)
    (hplace : copy.place = place) (hslot : copy.slotNumber = slot) :
    s.finishRecord copy result =
      State.nextRecord
        { s with
          store := store
          ckpt := { s.ckpt with
            failedSoFar := s.ckpt.failedSoFar + if result = .verified then 0 else 1
            firstFailed :=
              if result = .verified then s.ckpt.firstFailed else some (s.ckpt.firstFailed.getD slot) } }
        place := by
  subst hstore hplace hslot
  rw [State.finishRecord, counted_eq]

/-- CHECKPOINT_RECORD_WRITTEN on a powered part. -/
theorem recordWritten_becomes {u : State} (hp : s.powered = true) (hu : s.recordWritten result = u) :
    Becomes (.checkpointRecordWritten result) s u :=
  becomes_of_act (f := (·.recordWritten result)) hp rfl hu

/-- Settles O29: the row by what stands under the cursor, the copy by its place, and the record's end by its place and
the failures counted. -/
theorem recordWritten : Obligations.RecordWritten := by
  refine ⟨fun s result hp => ⟨fun place h => ⟨fun hc => recordWritten_becomes hp (recordWritten_due result h hc),
      fun hc => recordWritten_becomes hp (recordWritten_begins result h hc)⟩,
    fun copy h => recordWritten_becomes hp (recordWritten_begun result h),
    fun h => recordWritten_becomes hp (recordWritten_atRest result (isWriting_eq_false_iff.2 h))⟩,
    fun s => ⟨rfl, fun i => ?copied⟩, ?finished⟩
  case copied =>
    refine congrArg (RecordCopy.element i) ?_
    rw [State.elementCopy]
    cases (s.element i).position <;> rfl
  intro s copy result place slot store failed first ends
  have finish : s.finishRecord copy result =
      State.nextRecord
        { s with store := store, ckpt := { s.ckpt with failedSoFar := failed, firstFailed := first } } place := by
    refine finishRecord_eq (slot := slot) ?_ ?_ ?_
    · cases copy <;> cases result <;> rfl
    · cases copy <;> rfl
    · cases copy <;> rfl
  clear_value failed first store place
  have ended : ∀ u, s.finishRecord copy result = State.startPending u → u.ckpt.pending = s.ckpt.pending → ends u :=
    fun u hu hpending => ⟨fun h => hu.trans (startPending_none (hpending.trans h)),
      fun h => hu.trans (startPending_pending (hpending.trans h))⟩
  refine ⟨fun hplace => finish.trans (if_pos hplace), fun hplace hfailed => ended _ (finish.trans ?_) rfl,
    fun noted hplace hfailed hfirst => ended _ (finish.trans ?_) rfl⟩
  · subst hfailed
    exact (if_neg (Nat.not_lt.2 hplace)).trans (endCheckpoint_done rfl)
  · exact (if_neg (Nat.not_lt.2 hplace)).trans (endCheckpoint_failed hfailed hfirst)

end Sys2Proof.Machine
end

section
/-! The beginning of a start-up, and a loss of power, by what the checkpoint unit has in progress (R163, R173, R176,
R178, R195; notes/assumptions/7.md, 8.md, 9.md, 23.md). -/

namespace Sys2Proof.Machine

variable {s : State} {copy : RecordCopy} {tear : Tear} {erased : Nat} {torn : Bool}

/-! ### The store a start-up finds (R163, R176, R178) -/

theorem committedStore_writing (h : s.ckpt.progress = .writing copy) : s.committedStore = s.store.write copy := by
  rw [State.committedStore, h]

theorem committedStore_otherwise (h : ∀ copy, s.ckpt.progress ≠ .writing copy) : s.committedStore = s.store := by
  unfold State.committedStore
  split
  · exact absurd ‹_› (h _)
  all_goals rfl

theorem storeAtReset_written (h : s.ckpt.erasing = false) : s.storeAtReset erased = s.committedStore :=
  if_neg (Bool.eq_false_iff.1 h)

theorem storeAtReset_erasing (h : s.ckpt.erasing = true) : s.storeAtReset erased = s.store.erasedTo erased := if_pos h

/-- Settles O31: the store by what the checkpoint unit has in progress; the part over it is `beginStartup`'s own. -/
theorem startupBegins : Obligations.StartupBegins := by
  refine ⟨fun s => rfl, fun s erased hp => ?_, fun s => ⟨fun copy h => committedStore_writing h,
    committedStore_otherwise⟩, fun s store erasing => rfl⟩
  have begins : ∀ store, s.storeAtReset erased = store → Becomes (.resetPin erased) s (s.beginStartup store false) :=
    fun store hs => becomes_of_act (f := fun s => s.beginStartup (s.storeAtReset erased) false) hp rfl (hs ▸ rfl)
  exact ⟨fun he => begins _ (storeAtReset_written he), fun he => begins _ (storeAtReset_erasing he)⟩

/-! ### The store a loss of power leaves (R163, R176, R178) -/

theorem recordUnderCursor_atRest (h : s.ckpt.progress.isWriting = false) : s.recordUnderCursor = none := by
  rcases isWriting_eq_false_iff.1 h with h | h | h <;> rw [State.recordUnderCursor, h]

theorem cutStore_atRest (h : s.recordUnderCursor = none) (tear : Tear) : s.cutStore tear = s.store := by
  simp only [State.cutStore, h]

/-- The slot of the record under the cursor holds the old record, the new one, or neither. -/
theorem cutStore_record (h : s.recordUnderCursor = some copy) :
    s.cutStore .oldRecord = s.store ∧ s.cutStore .newRecord = s.store.write copy ∧
      s.cutStore .invalid = s.store.tearAt copy := by
  simp only [State.cutStore, h, and_self]

theorem storeAtLoss_written (h : s.ckpt.erasing = false) : s.storeAtLoss tear erased torn = s.cutStore tear :=
  if_neg (Bool.eq_false_iff.1 h)

theorem storeAtLoss_erasing (h : s.ckpt.erasing = true) :
    s.storeAtLoss tear erased torn =
      if torn then (s.store.erasedTo erased).tornAt erased else s.store.erasedTo erased := if_pos h

theorem powerLoss_powered {store : Store} (hp : s.powered = true) (hs : s.storeAtLoss tear erased torn = store) :
    exec (.powerLoss tear erased torn) s = .next { s.beginStartup store false with powered := false } := by
  subst hs
  exact congrArg _ (if_pos hp)

/-- Settles O32: the store left, by whether an erase runs and whether a record stands under the cursor. -/
theorem powerLoss : Obligations.PowerLoss := by
  intro s tear erased torn hp lost
  have leaves : ∀ store, s.storeAtLoss tear erased torn = store → lost store := fun store => powerLoss_powered hp
  refine ⟨fun he h => leaves _ ?_, fun copy he h => ?_, fun he ht => leaves _ ?_, fun he ht => leaves _ ?_⟩
  · rw [storeAtLoss_written he, cutStore_atRest (recordUnderCursor_atRest (isWriting_eq_false_iff.2 h))]
  · have record : s.recordUnderCursor = some copy := by
      rcases h with h | ⟨place, h, rfl⟩
      · exact recordUnderCursor_writing h
      · exact recordUnderCursor_due h
    obtain ⟨old, new, invalid⟩ := cutStore_record record
    refine ⟨fun ht => leaves _ ?_, fun ht => leaves _ ?_, fun ht => leaves _ ?_⟩
    all_goals subst ht
    · exact (storeAtLoss_written he).trans old
    · exact (storeAtLoss_written he).trans new
    · exact (storeAtLoss_written he).trans invalid
  · rw [storeAtLoss_erasing he, ht, if_neg Bool.false_ne_true]
  · rw [storeAtLoss_erasing he, ht, if_pos rfl]

end Sys2Proof.Machine
end

section
/-! The frame being sent to the host, and what its last byte ends: a reply, with the held request it dispatches or the
start-up it begins, a BUSY reply, a notice (R177 to R184, R194; notes/assumptions/2.md, 23.md). -/

namespace Sys2Proof.Machine

/-! ### The bytes of a frame (R179 to R182, R194) -/

theorem replyCode_eq (code : Byte) :
    replyCode code = if code.msb = true ∨ code = 0x7F then 0x80 else code ||| 0x80 := by
  simp only [replyCode, Bool.or_eq_true, beq_iff_eq]

theorem minuteBytes_eq (minute : Option Nat) : minuteBytes minute = u32 (minute.getD 4294967295) := by
  cases minute <;> rfl

section Frame

variable {h : HostLink} {code : Byte} {r : Reply}

theorem hostSentFrame_idle (ht : h.tx = none) : h.sentFrame = none := by
  simp only [HostLink.sentFrame, ht]

theorem hostSentFrame_busy (ht : h.tx = some (.busy code)) :
    h.sentFrame = some (hostFrame [if code.msb = true ∨ code = 0x7F then 0x80 else code ||| 0x80, 0x19]) := by
  simp only [HostLink.sentFrame, ht]
  rw [← replyCode_eq]
  rfl

theorem hostSentFrame_reply (ht : h.tx = some .reply) (hr : h.inHand = some ⟨code, .sending r⟩) :
    h.sentFrame = some (hostFrame ([r.code] ++ u8 r.status.code ++ r.payload ++ r.summary)) := by
  simp only [HostLink.sentFrame, ht, hr]
  rfl

theorem hostSentFrame_notice {kind subject : Nat} {minute : Option Nat}
    (ht : h.tx = some (.notice kind subject minute)) :
    h.sentFrame =
      some (hostFrame ([0xFF] ++ u8 kind ++ u16 subject ++ u32 (minute.getD 4294967295))) := by
  simp only [HostLink.sentFrame, ht, minuteBytes_eq]

end Frame

/-! ### The last byte of a reply (R177, R178, R182, R183) -/

theorem finish_unheld {l : HostLink} {engine : EngineState} (h : l.held = none) :
    l.finish engine = { l with tx := none, inHand := none } := by
  simp only [HostLink.finish, h, Option.map_none]

theorem finish_held {l : HostLink} {engine : EngineState} {f : HostFrame} (h : l.held = some f) :
    l.finish engine = { l with tx := none, inHand := some (judge engine f), held := none } := by
  simp only [HostLink.finish, h, Option.map_some]

variable {s u : State} {code : Byte} {r : Reply}

/-- The end of a reply that nothing follows frees the request in hand, and a held frame is taken. -/
theorem replySent_finishes (ht : s.host.tx = some .reply) (hr : s.host.inHand = some ⟨code, .sending r⟩)
    (ha : r.after = .nothing) : s.replySent = { s with host := s.host.finish s.engine } := by
  simp only [State.replySent, ht, hr, ha]

theorem replySent_restarts (ht : s.host.tx = some .reply) (hr : s.host.inHand = some ⟨code, .sending r⟩)
    (ha : r.after = .restart) : s.replySent = s.beginStartup s.committedStore false := by
  simp only [State.replySent, ht, hr, ha]

theorem replySent_wipes (ht : s.host.tx = some .reply) (hr : s.host.inHand = some ⟨code, .sending r⟩)
    (ha : r.after = .wipe) : s.replySent = s.beginStartup s.committedStore true := by
  simp only [State.replySent, ht, hr, ha]

/-- A reply that a start-up follows dispatches no request. -/
theorem dispatchedNext_startup (ht : s.host.tx = some .reply) (hr : s.host.inHand = some ⟨code, .sending r⟩)
    (ha : r.after ≠ .nothing) : s.dispatchedNext = none := by
  cases h : r.after with
  | nothing => exact absurd h ha
  | restart | wipe => simp only [State.dispatchedNext, ht, hr, h]

/-- With nothing held no request is dispatched. -/
theorem dispatchedNext_unheld (hh : s.host.held = none) : s.dispatchedNext = none := by
  unfold State.dispatchedNext
  split
  · split
    · rename_i hj
      rw [finish_unheld hh] at hj
      cases hj
    · rfl
  · rfl

/-- A held frame that its judging does not pass dispatches no request. -/
theorem dispatchedNext_failing {f : HostFrame} (hh : s.host.held = some f)
    (hf : ∀ held i, judge s.engine f ≠ ⟨held, .executing i⟩) : s.dispatchedNext = none := by
  unfold State.dispatchedNext
  split
  · split
    · rename_i held i _ hj
      rw [finish_held hh] at hj
      exact absurd (Option.some.inj hj) (hf held i)
    · rfl
  · rfl

/-- A held frame that passes is dispatched at the end of the reply. -/
theorem dispatchedNext_passing {f : HostFrame} {held : Byte} {i : Instr} (ht : s.host.tx = some .reply)
    (hr : s.host.inHand = some ⟨code, .sending r⟩) (ha : r.after = .nothing) (hh : s.host.held = some f)
    (hf : judge s.engine f = ⟨held, .executing i⟩) : s.dispatchedNext = some i := by
  simp only [State.dispatchedNext, ht, hr, ha, finish_held hh, hf]

theorem exec_hostReplySent (s : State) : exec .hostReplySent s = execHostReplySent s := rfl

/-- HOST_REPLY_SENT that dispatches no request. -/
theorem hostReplySent_undispatched (hp : s.powered = true) (hd : s.dispatchedNext = none) (hu : s.replySent = u) :
    Becomes .hostReplySent s u := by
  refine becomes_of_act hp ?_ hu
  rw [exec_hostReplySent, execHostReplySent, hd]

/-- HOST_REPLY_SENT that dispatches a request whose work is not complete when the transmitter chooses. -/
theorem hostReplySent_dispatches {i : Instr} (hp : s.powered = true) (hd : s.dispatchedNext = some i)
    (hw : s.prompt = false) (hu : s.promptTaken.replySent = u) : Becomes .hostReplySent s u := by
  refine becomes_of_act (f := fun s => s.promptTaken.replySent) hp ?_ hu
  rw [exec_hostReplySent, execHostReplySent, hd]
  simp [hw]

/-- HOST_REPLY_SENT that dispatches a request whose work is complete when the transmitter chooses. -/
theorem hostReplySent_executes {i : Instr} (hp : s.powered = true) (hd : s.dispatchedNext = some i)
    (hw : s.prompt = true) (hu : s.promptTaken.replySent = u) : exec .hostReplySent s = exec i u := by
  rw [exec_hostReplySent, execHostReplySent, hd]
  simp only [hp, hw, Bool.and_self, if_true, hu]
  exact execRequest_eq (dispatchedNext_request hd) u

/-! ### The last byte of a BUSY reply and of a notice (R183, R194) -/

theorem busySent_frees (ht : s.host.tx = some (.busy code)) :
    s.busySent = { s with host := { s.host with tx := none } } := by
  simp only [State.busySent, ht]

theorem noticeSent_frees {kind subject : Nat} {minute : Option Nat}
    (ht : s.host.tx = some (.notice kind subject minute)) :
    s.noticeSent = { s with host := { s.host with tx := none } } := by
  simp only [State.noticeSent, ht]

/-- Settles O8: the bytes by what the transmitter sends; the end of a reply by what follows it, what is held, and what
the judging of a held frame and the schedule give. -/
theorem framesSent : Obligations.FramesSent := by
  refine ⟨fun h => ⟨hostSentFrame_idle, fun code => hostSentFrame_busy, fun code r => hostSentFrame_reply,
      fun kind subject minute => hostSentFrame_notice⟩,
    fun s hp => ⟨fun code r ht hr => ⟨fun ha hh => ?unheld, fun f ha hh => ?held, fun ha => ?restart, fun ha => ?wipe⟩,
      fun code ht => becomes_of_act hp rfl (busySent_frees ht),
      fun kind subject minute ht => becomes_of_act hp rfl (noticeSent_frees ht)⟩⟩
  case unheld =>
    refine hostReplySent_undispatched hp (dispatchedNext_unheld hh) ?_
    rw [replySent_finishes ht hr ha, finish_unheld hh]
  case held =>
    intro taken dispatched
    have sent : s.replySent = taken := by rw [replySent_finishes ht hr ha, finish_held hh]
    refine ⟨fun hf => hostReplySent_undispatched hp (dispatchedNext_failing hh hf) sent, fun held i hf => ?passing⟩
    have request := dispatchedNext_passing ht hr ha hh hf
    have sent : s.promptTaken.replySent = dispatched := by
      rw [replySent_finishes (s := s.promptTaken) ht hr ha, finish_held (l := s.promptTaken.host) hh]
      rfl
    exact ⟨fun hw => hostReplySent_dispatches hp request hw sent, fun hw => hostReplySent_executes hp request hw sent⟩
  case restart =>
    exact hostReplySent_undispatched hp (dispatchedNext_startup ht hr (by simp [ha])) (replySent_restarts ht hr ha)
  case wipe =>
    exact hostReplySent_undispatched hp (dispatchedNext_startup ht hr (by simp [ha])) (replySent_wipes ht hr ha)

end Sys2Proof.Machine
end

section
/-! SUPPORT. The conditions and their latched bits (R83, R131, R153, R191): a condition that an act makes hold is
announced by one of the act's alerts, and an announced kind is latched. -/

namespace Sys2Proof.Machine

/-! ### What an event latches (R190, R191) -/

/-- The kind whose bit an event latches. -/
def AlertEvent.latches : AlertEvent → Option AlertKind
  | .raised k _ => some k
  | .conditionSet k _ _ => some k
  | .conditionEnded _ => none

/-- Some alert of the list latches the kind. -/
def Announces (es : List AlertEvent) (k : AlertKind) : Prop := ∃ e ∈ es, e.latches = some k

theorem announces_append_left {es : List AlertEvent} {k : AlertKind} (h : Announces es k) (fs : List AlertEvent) :
    Announces (es ++ fs) k := by
  obtain ⟨e, he, hk⟩ := h
  exact ⟨e, List.mem_append_left _ he, hk⟩

theorem announces_append_right {fs : List AlertEvent} {k : AlertKind} (h : Announces fs k) (es : List AlertEvent) :
    Announces (es ++ fs) k := by
  obtain ⟨e, he, hk⟩ := h
  exact ⟨e, List.mem_append_right _ he, hk⟩

theorem announces_set (k : AlertKind) (subject : Nat) (starts : Bool) :
    Announces [.conditionSet k subject starts] k :=
  ⟨_, List.mem_singleton_self _, rfl⟩

theorem code_lt (k : AlertKind) : k.code < 19 := by cases k <;> decide

theorem bit_getLsbD_self (k : AlertKind) : k.bit.getLsbD k.code = true := by
  simp [AlertKind.bit, code_lt k]

theorem take_latches {a : AlertUnit} {e : AlertEvent} {k : AlertKind} (h : e.latches = some k) :
    (a.take e).latched.getLsbD k.code = true := by
  rw [take_latched, BitVec.getLsbD_or, Bool.or_eq_true]
  right
  cases e with
  | raised _ _ | conditionSet _ _ _ =>
    cases h
    exact bit_getLsbD_self k
  | conditionEnded _ => cases h

theorem take_latched_of {a : AlertUnit} {b : Nat} (e : AlertEvent) (h : a.latched.getLsbD b = true) :
    (a.take e).latched.getLsbD b = true := takeAll_latched_of a [e] b h

theorem takeAll_latches (a : AlertUnit) {es : List AlertEvent} {k : AlertKind} (h : Announces es k) :
    (a.takeAll es).latched.getLsbD k.code = true := by
  obtain ⟨e, he, hk⟩ := h
  obtain ⟨before, after, rfl⟩ := List.append_of_mem he
  rw [takeAll_append, takeAll_cons]
  exact takeAll_latched_of _ _ _ (take_latches hk)

/-! ### The law (R191) -/

/-- Each condition's bit is latched while the condition holds. -/
structure ConditionsSound (ts : Vector Transport 32) (p : PlanUnit) (clock : Option Nat) (latched : BitVec 19) :
    Prop where
  slip : anySlipping ts = true → latched.getLsbD AlertKind.slip.code = true
  sensorFail : anyFailed ts = true → latched.getLsbD AlertKind.sensorFail.code = true
  unplaced : p.anyUnplaced = true → latched.getLsbD AlertKind.planUnplaced.code = true
  clockUnset : clock = none → latched.getLsbD AlertKind.clockUnset.code = true

def State.conditionsSound (s : State) : Prop := ConditionsSound s.transports s.plan s.clock s.alerts.latched

theorem bit_and_not_eq_zero (k : AlertKind) (l : BitVec 19) : k.bit &&& ~~~l = 0 ↔ l.getLsbD k.code = true := by
  constructor
  · intro h
    have hk := congrArg (fun v => v.getLsbD k.code) h
    simpa [bit_getLsbD_self, code_lt k] using hk
  · intro h
    apply BitVec.eq_of_getLsbD_eq
    intro i hi
    by_cases hk : k.code = i
    · simp [← hk, h]
    · simp [AlertKind.bit, BitVec.getLsbD_twoPow, hk]

theorem conditionBit_and_not_eq_zero (c : Bool) (k : AlertKind) (l : BitVec 19) :
    (if c = true then k.bit else 0) &&& ~~~l = 0 ↔ (c = true → l.getLsbD k.code = true) := by
  cases c with
  | false => simp
  | true => exact (bit_and_not_eq_zero k l).trans ⟨fun h _ => h, fun h => h rfl⟩

theorem or_and_eq_zero (x y z : BitVec 19) : (x ||| y) &&& z = 0 ↔ x &&& z = 0 ∧ y &&& z = 0 := by
  rw [BitVec.and_or_distrib_right]
  exact BitVec.or_eq_zero_iff

theorem conditionsLatched_iff (s : State) : s.conditionsLatched ↔ s.conditionsSound := by
  simp only [State.conditionsLatched, State.conditionBits, or_and_eq_zero, conditionBit_and_not_eq_zero]
  constructor
  · rintro ⟨⟨⟨hslip, hfail⟩, hplan⟩, hclock⟩
    exact ⟨hslip, hfail, hplan, fun h => hclock (by rw [h]; rfl)⟩
  · rintro ⟨hslip, hfail, hplan, hclock⟩
    exact ⟨⟨⟨hslip, hfail⟩, hplan⟩, fun h => hclock (Option.isNone_iff_eq_none.1 h)⟩

variable {ts ts' : Vector Transport 32} {p p' : PlanUnit} {clock clock' : Option Nat} {a : AlertUnit}
  {es : List AlertEvent}

/-- The law after an act whose alerts announce each condition that did not hold before. -/
theorem ConditionsSound.announced (h : ConditionsSound ts p clock a.latched)
    (hslip : anySlipping ts' = true → anySlipping ts = true ∨ Announces es .slip)
    (hfail : anyFailed ts' = true → anyFailed ts = true ∨ Announces es .sensorFail)
    (hplan : p'.anyUnplaced = true → p.anyUnplaced = true ∨ Announces es .planUnplaced)
    (hclock : clock' = none → clock = none ∨ Announces es .clockUnset) :
    ConditionsSound ts' p' clock' (a.takeAll es).latched where
  slip hc := (hslip hc).elim (fun hb => takeAll_latched_of a es _ (h.slip hb)) (takeAll_latches a)
  sensorFail hc := (hfail hc).elim (fun hb => takeAll_latched_of a es _ (h.sensorFail hb)) (takeAll_latches a)
  unplaced hc := (hplan hc).elim (fun hb => takeAll_latched_of a es _ (h.unplaced hb)) (takeAll_latches a)
  clockUnset hc := (hclock hc).elim (fun hb => takeAll_latched_of a es _ (h.clockUnset hb)) (takeAll_latches a)

/-- Alerts alone take no latched bit away. -/
theorem ConditionsSound.raised (h : ConditionsSound ts p clock a.latched) (es : List AlertEvent) :
    ConditionsSound ts p clock (a.takeAll es).latched :=
  h.announced .inl .inl .inl .inl

/-! ### The part -/

variable {s u : State}

/-- What the law reads of the part. -/
def State.conditionFields (s : State) : Vector Transport 32 × PlanUnit × Option Nat × BitVec 19 :=
  (s.transports, s.plan, s.clock, s.alerts.latched)

theorem conditionsSound_congr (h : u.conditionFields = s.conditionFields) (hs : s.conditionsSound) :
    u.conditionsSound := by
  simp only [State.conditionFields, Prod.mk.injEq] at h
  obtain ⟨ht, hp, hc, hl⟩ := h
  rw [State.conditionsSound, ht, hp, hc, hl]
  exact hs

/-- An act that leaves every condition as it is and takes no latched bit away. -/
theorem conditionsSound_latching (ht : u.transports = s.transports) (hp : u.plan = s.plan) (hc : u.clock = s.clock)
    (hl : ∀ b, s.alerts.latched.getLsbD b = true → u.alerts.latched.getLsbD b = true) (hs : s.conditionsSound) :
    u.conditionsSound := by
  obtain ⟨hslip, hfail, hplan, hclock⟩ := hs
  rw [State.conditionsSound, ht, hp, hc]
  exact ⟨fun h => hl _ (hslip h), fun h => hl _ (hfail h), fun h => hl _ (hplan h), fun h => hl _ (hclock h)⟩

/-- An act that raises alerts and leaves every condition as it is. -/
theorem conditionsSound_raised {es : List AlertEvent} (hs : s.conditionsSound) (ht : u.transports = s.transports)
    (hp : u.plan = s.plan) (hc : u.clock = s.clock) (ha : u.alerts = s.alerts.takeAll es) : u.conditionsSound :=
  conditionsSound_latching ht hp hc (fun b hb => by rw [ha]; exact takeAll_latched_of _ _ _ hb) hs

/-- A start-up's beginning, and a loss of power, leave CLOCK_UNSET latched and no other condition (R131, R191). -/
theorem conditionsSound_of_fresh (ht : u.transports = Vector.replicate 32 .fresh) (hp : u.plan = .fresh)
    (ha : u.alerts = .fresh) : u.conditionsSound := by
  rw [State.conditionsSound, ht, hp, ha]
  exact ⟨by decide, by decide, by decide, fun _ => by decide⟩

theorem conditionsSound_host : KeptByHost State.conditionsSound where
  chosen s := conditionsSound_congr (by simp [State.conditionFields])
  inHand _ _ := conditionsSound_congr rfl
  frame _ _ := conditionsSound_congr rfl

/-! ### The monitor's table (R83) -/

/-- A transport's record is replaced: a property of some record held before, or holds of the new one. -/
theorem any_tset {r : Transport} {t : Nat} {q : Transport → Bool}
    (h : (tlist (tset ts t r)).any q = true) : (tlist ts).any q = true ∨ (q r = true ∧ t < 32) := by
  obtain ⟨i, hi, hq⟩ := (any_tlist q .fresh).1 h
  rw [tget_tset] at hq
  split at hq
  · rename_i ht
    exact .inr ⟨hq, ht.2⟩
  · exact .inl ((any_tlist q .fresh).2 ⟨i, hi, hq⟩)

theorem any_of_tget {t : Nat} {q : Transport → Bool} (ht : t < 32) (hq : q (tget ts t .fresh) = true) :
    (tlist ts).any q = true := (any_tlist q .fresh).2 ⟨t, ht, hq⟩

/-- What leaves the slip and the sensor state of a record as they are. -/
def KeepsStates (g : Transport → Transport) : Prop := ∀ r, (g r).slip = r.slip ∧ (g r).sensor = r.sensor

theorem countItem_keepsStates : KeepsStates Transport.countItem := fun _ => ⟨rfl, rfl⟩
theorem countJam_keepsStates : KeepsStates Transport.countJam := fun _ => ⟨rfl, rfl⟩
theorem closeInterval_keepsStates : KeepsStates Transport.closeInterval := fun _ => ⟨rfl, rfl⟩
theorem halt_keepsStates : KeepsStates Transport.halt := fun _ => ⟨rfl, rfl⟩
theorem countMinute_keepsStates : KeepsStates Transport.countMinute := fun r => by
  unfold Transport.countMinute
  split <;> exact ⟨rfl, rfl⟩

theorem onTransport_conditionsSound {g : Transport → Transport} (hs : s.conditionsSound) (t : Nat)
    (hg : KeepsStates g) : (s.onTransport t g).conditionsSound := by
  obtain ⟨hslip, hfail⟩ := hg (s.transport t)
  refine hs.announced (es := []) (fun h => .inl ?_) (fun h => .inl ?_) .inl .inl
  · refine (any_tset h).elim id fun ⟨hq, ht⟩ => any_of_tget ht ?_
    rwa [hslip] at hq
  · refine (any_tset h).elim id fun ⟨hq, ht⟩ => any_of_tget ht ?_
    rwa [hfail] at hq

theorem onTransports_conditionsSound {g : Transport → Transport} (hs : s.conditionsSound) (hg : KeepsStates g) :
    (s.onTransports g).conditionsSound := by
  refine hs.announced (es := []) (fun h => .inl ?_) (fun h => .inl ?_) .inl .inl
  · simpa [anySlipping, Function.comp_def, (hg _).1] using h
  · simpa [anyFailed, Function.comp_def, (hg _).2] using h

/-- A condition that a sample makes hold at its transport, where it did not, is announced (R83). -/
theorem conditionReport_announces (kind : AlertKind) (t : Nat) {was is : Bool} (anyBefore anyAfter : Bool)
    (hw : was = false) (hi : is = true) : Announces (conditionReport kind t was is anyBefore anyAfter) kind := by
  subst hw hi
  exact announces_set _ _ _

theorem takeSample_conditionsSound (hs : s.conditionsSound) (t drive belt : Nat) (valid : Bool) :
    (s.takeSample t drive belt valid).conditionsSound := by
  refine hs.announced (fun h => ?_) (fun h => ?_) .inl .inl
  · rcases any_tset h with before | ⟨after, ht⟩
    · exact .inl before
    · cases hw : (s.transport t).slip == .slipping with
      | true => exact .inl (any_of_tget (q := fun r => r.slip == .slipping) ht hw)
      | false => exact .inr (announces_append_right (conditionReport_announces _ _ _ _ rfl after) _)
  · rcases any_tset h with before | ⟨after, ht⟩
    · exact .inl before
    · cases hw : (s.transport t).sensor == .failed with
      | true => exact .inl (any_of_tget (q := fun r => r.sensor == .failed) ht hw)
      | false => exact .inr (announces_append_left (conditionReport_announces _ _ _ _ rfl after) _)

end Sys2Proof.Machine
end

section
/-! What the plan unit reports of PLAN_UNPLACED: an operation after which some entry is unplaced, where none was,
announces it (R151, R153, R157). -/

namespace Sys2Proof.Machine

variable {p : PlanUnit} {e : PlanEntry}

/-! ### Unplaced entries -/

theorem anyUnplaced_iff (p : PlanUnit) : p.anyUnplaced = true ↔ ∃ e ∈ p.queue, e.unplaced = true :=
  List.any_eq_true

theorem anyUnplaced_perm {p q : PlanUnit} (h : p.queue.Perm q.queue) : p.anyUnplaced = q.anyUnplaced := by
  rw [Bool.eq_iff_iff, anyUnplaced_iff, anyUnplaced_iff]
  simp only [h.mem_iff]

theorem anyUnplaced_reorder (c : Nat) (p : PlanUnit) : (p.reorder c).anyUnplaced = p.anyUnplaced :=
  anyUnplaced_perm (orderEntries_perm c p.queue)

/-- An entry that joins placed leaves no other unplaced. -/
theorem anyUnplaced_insert {c : Nat} (he : e.unplaced = false) : (p.insert c e).anyUnplaced = p.anyUnplaced := by
  rw [Bool.eq_iff_iff, anyUnplaced_iff, anyUnplaced_iff]
  simp [(insert_perm c p e).mem_iff, he]

theorem anyUnplaced_remove (h : (p.remove e).anyUnplaced = true) : p.anyUnplaced = true := by
  obtain ⟨x, hx, hu⟩ := (anyUnplaced_iff _).1 h
  exact (anyUnplaced_iff p).2 ⟨x, List.mem_of_mem_filter hx, hu⟩

/-- A change of the entries that marks none as unplaced. -/
theorem anyUnplaced_map {g : PlanEntry → PlanEntry} {ws : Vector (Option Window) 8}
    (hg : ∀ x, (g x).unplaced = true → x.unplaced = true)
    (h : (PlanUnit.mk ws (p.queue.map g)).anyUnplaced = true) : p.anyUnplaced = true := by
  obtain ⟨y, hy, hu⟩ := (anyUnplaced_iff _).1 h
  obtain ⟨x, hx, rfl⟩ := List.mem_map.1 hy
  exact (anyUnplaced_iff p).2 ⟨x, hx, hg x hu⟩

theorem anyUnplaced_update {i : Nat} {g : PlanEntry → PlanEntry} (h : (p.update i g).anyUnplaced = true)
    (hg : ∀ x, (g x).unplaced = x.unplaced) : p.anyUnplaced = true := by
  refine anyUnplaced_map (fun x hx => ?_) h
  split at hx
  · rwa [hg] at hx
  · exact hx

theorem anyUnplaced_dropEnded {c : Nat} (h : (p.dropEnded c).anyUnplaced = true) : p.anyUnplaced = true := by
  refine anyUnplaced_map (fun x hx => ?_) h
  split at hx <;> exact hx

/-! ### Reports (R153) -/

/-- Where an entry is unplaced after an operation, one was before or the operation announces it. -/
def PlanUnit.Reports (p : PlanUnit) (r : PlanUnit × List AlertEvent) : Prop :=
  r.1.anyUnplaced = true → p.anyUnplaced = true ∨ Announces r.2 .planUnplaced

/-- The end of a replan reports the condition whatever the plan was before it. -/
theorem settleReplan_announces (held : Bool) (h : p.anyUnplaced = true) :
    Announces (settleReplan held p) .planUnplaced := by
  obtain ⟨e, he, hu⟩ := (anyUnplaced_iff p).1 h
  obtain ⟨x, hx⟩ := Option.isSome_iff_exists.1 (List.find?_isSome.2 ⟨e, he, hu⟩)
  rw [settleReplan, hx]
  exact announces_set _ _ _

theorem emptied_reports (p q : PlanUnit) : q.Reports p.emptied := fun h => by cases h

theorem replan_reports (p q : PlanUnit) (clock : Option Nat) (horizon percent : Nat) (es : Vector Element 240) :
    q.Reports ((p.replan clock horizon percent es).unit, (p.replan clock horizon percent es).alerts) := by
  cases clock with
  | none => exact emptied_reports p q
  | some c => exact fun h => .inr (announces_append_right (settleReplan_announces _ h) _)

theorem tick_reports (p : PlanUnit) (carried : Option Nat) : p.Reports (p.tick carried) := by
  cases carried with
  | none => exact emptied_reports p p
  | some c => exact fun h => .inl (anyUnplaced_dropEnded ((anyUnplaced_reorder c _).symm.trans h))

theorem addNew_reports {c : Nat} (he : e.unplaced = false) : p.Reports (p.addNew c e) := by
  intro h
  refine .inl ?_
  unfold PlanUnit.addNew at h
  split at h
  · rwa [anyUnplaced_insert he] at h
  · split at h
    · split at h
      · rw [anyUnplaced_insert he] at h
        exact anyUnplaced_remove h
      · exact h
    · exact h

theorem milestoneNotice_reports (p : PlanUnit) (clock : Option Nat) (n : MilestoneNotice) :
    p.Reports (p.milestoneNotice clock n) := by
  unfold PlanUnit.milestoneNotice
  split
  · split
    · intro h
      rw [anyUnplaced_reorder] at h
      exact .inl (anyUnplaced_update h fun _ => rfl)
    · exact addNew_reports rfl
  · exact .inl

theorem projectionNotice_reports (p : PlanUnit) (clock : Option Nat) (i : Nat) (due : Projection) :
    p.Reports (p.projectionNotice clock i due, []) := by
  unfold PlanUnit.projectionNotice
  split
  · intro h
    rw [anyUnplaced_reorder] at h
    exact .inl (anyUnplaced_update h fun _ => rfl)
  · exact .inl
  · exact .inl

theorem removalNotice_reports (p : PlanUnit) (i : Nat) : p.Reports (p.removalNotice i) := by
  unfold PlanUnit.removalNotice
  split
  · exact fun h => .inl (anyUnplaced_remove h)
  · exact .inl

/-- The entry that a cost notice takes off its window is announced (R157). -/
theorem costNotice_reports (p : PlanUnit) (i cost : Nat) : p.Reports (p.costNotice i cost) := by
  unfold PlanUnit.costNotice
  split
  · split
    · split
      · exact fun h => .inl (anyUnplaced_update (i := i) (g := fun e => { e with cost := cost }) h fun _ => rfl)
      · exact fun _ => .inr (announces_set _ _ _)
    · exact fun h => .inl (anyUnplaced_update h fun _ => rfl)
  · exact .inl

theorem planNotice_reports (s : State) (i : Nat) (ev : Evaluation) : s.plan.Reports (s.planNotice i ev) := by
  unfold State.planNotice
  split
  · exact milestoneNotice_reports _ _ _
  · split
    · exact projectionNotice_reports _ _ _ _
    · exact .inl

end Sys2Proof.Machine
end

section
/-! The latched bit of each condition is set while the condition holds (R83, R131, R153, R191): every row keeps it. -/

namespace Sys2Proof.Machine

variable {s u : State} {p : PlanUnit}

/-! ### The plan unit in the part -/

/-- The plan unit's new state is stored and its alerts are raised, last of all that an act raises. -/
theorem conditionsSound_reports {es : List AlertEvent} {r : PlanUnit × List AlertEvent} (hs : s.conditionsSound)
    (hr : s.plan.Reports r) (ht : u.transports = s.transports) (hp : u.plan = r.1) (hc : u.clock = s.clock)
    (ha : u.alerts = s.alerts.takeAll (es ++ r.2)) : u.conditionsSound := by
  rw [State.conditionsSound, ht, hp, hc, ha]
  exact hs.announced .inl .inl (fun h => (hr h).imp_right fun hn => announces_append_right hn es) .inl

theorem takePlan_conditionsSound {r : PlanUnit × List AlertEvent} (hs : s.conditionsSound) (hr : s.plan.Reports r) :
    (s.takePlan r).conditionsSound := conditionsSound_reports (es := []) hs hr rfl rfl rfl rfl

/-- A replan settles PLAN_UNPLACED whatever the plan before it. -/
theorem replan_settles {ts : Vector Transport 32} (h : ConditionsSound ts p s.clock s.alerts.latched)
    (ht : s.transports = ts) : s.replan.conditionsSound := by
  subst ht
  exact h.announced .inl .inl (replan_reports s.plan p s.clock _ _ s.elements) .inl

theorem replan_conditionsSound (hs : s.conditionsSound) : s.replan.conditionsSound := replan_settles hs rfl

/-- A plan put in place of the old one, and its replan. -/
theorem setPlan_replan_conditionsSound (hs : s.conditionsSound) (q : PlanUnit) :
    (s.setPlan q).replan.conditionsSound := replan_settles (s := s.setPlan q) (p := s.plan) hs rfl

theorem handOff_conditionsSound (hs : s.conditionsSound) (o : Offer) (ev : Evaluation) :
    (s.handOff o ev).conditionsSound :=
  conditionsSound_reports hs (planNotice_reports s o.element ev) rfl rfl rfl rfl

theorem conditionsSound_charges : KeptByCharges State.conditionsSound := by
  intro s i f c hf hs
  refine handOff_conditionsSound ?_ _ _
  exact conditionsSound_congr rfl hs

theorem triggerCheckpoint_conditionFields (s : State) : s.triggerCheckpoint.conditionFields = s.conditionFields := by
  simp [State.conditionFields]

theorem conditionsSound_boundary : KeptByBoundary State.conditionsSound where
  charges := conditionsSound_charges
  work _ _ := conditionsSound_congr rfl
  done _ := conditionsSound_congr rfl
  counted _ t hs := onTransport_conditionsSound hs t countItem_keepsStates
  timer _ _ := conditionsSound_congr rfl
  rolled _ _ _ _ _ := conditionsSound_congr rfl
  closed _ hs := conditionsSound_congr rfl (onTransports_conditionsSound hs closeInterval_keepsStates)
  replanned _ := replan_conditionsSound
  triggered s := conditionsSound_congr (triggerCheckpoint_conditionFields s)

/-! ### The line link (R93, R94, R100, R117) -/

theorem passOn_latched {b : Nat} (r : Inbound) (h : s.alerts.latched.getLsbD b = true) :
    (s.passOn r).alerts.latched.getLsbD b = true := by
  unfold State.passOn
  split
  · rwa [discardStarting_alerts]
  · cases r with
    | queued r =>
      dsimp only
      unfold State.offer
      split
      · exact h
      · exact take_latched_of _ h
    | answer tag t granted =>
      dsimp only
      unfold State.takeAnswer
      split
      · exact takeAll_latched_of _ _ _ h
      · exact h

theorem lineByte_conditionsSound (hs : s.conditionsSound) (b : Byte) : (s.lineByte b).conditionsSound := by
  refine conditionsSound_latching (lineByte_transports s b) (lineByte_plan s b) (lineByte_clock s b) (fun k h => ?_) hs
  unfold State.lineByte State.recordArrives
  dsimp only
  split
  · split
    · exact passOn_latched _ h
    · exact take_latched_of _ h
  · exact h

theorem lineBytes_conditionsSound (hs : s.conditionsSound) (bytes : List Byte) : (s.lineBytes bytes).conditionsSound :=
  foldl_keeps_prop (Q := State.conditionsSound) (fun _ b h => lineByte_conditionsSound h b) bytes hs

theorem lineGap_conditionsSound (hs : s.conditionsSound) : s.lineGap.conditionsSound := by
  unfold State.lineGap
  split
  · exact conditionsSound_raised (es := [.raised .lineFrameError _]) hs rfl rfl rfl rfl
  · exact hs

/-! ### Records taken (R27, R30, R43, R59) -/

theorem takeMode_conditionsSound (hs : s.conditionsSound) (m : LineMode) : (s.takeMode m).conditionsSound := by
  have set : State.conditionsSound { s with wear := { s.wear with mode := m } } := conditionsSound_congr rfl hs
  unfold State.takeMode
  split
  · exact onTransports_conditionsSound set halt_keepsStates
  · exact set

theorem beginRecord_conditionsSound (hs : s.conditionsSound) (acts : Option Nat) (r : LineRecord) :
    (s.beginRecord acts r).conditionsSound := by
  have worked := conditionsSound_boundary.toKeptByWork
  cases r with
  | item it =>
    rw [State.beginRecord]
    split
    · exact itemWork_keeps worked _ _ _ _ _ (conditionsSound_raised hs rfl rfl rfl (routeItem_alerts s it))
    · exact conditionsSound_congr rfl hs
  | mode m => exact takeMode_conditionsSound hs m
  | tach t drive belt valid => exact takeSample_conditionsSound hs t drive belt valid
  | jam t severity =>
    have counted := onTransport_conditionsSound hs t countJam_keepsStates
    rw [State.beginRecord]
    split
    · exact jamWork_keeps worked _ _ _ _ _ _ counted
    · exact counted

theorem takeRecord_conditionsSound (hs : s.conditionsSound) : s.takeRecord.conditionsSound := by
  unfold State.takeRecord
  split
  · exact hs
  · exact goOn_keeps conditionsSound_boundary.toKeptByWork _ _ (conditionsSound_congr rfl hs)
  · refine beginRecord_conditionsSound ?_ _ _
    exact conditionsSound_congr rfl hs
  · exact hs

/-! ### Time (R40, R87, R128, R131, R145) -/

theorem deliverPlanTick_conditionsSound (hs : s.conditionsSound) : s.deliverPlanTick.conditionsSound := by
  unfold State.deliverPlanTick
  split
  · exact conditionsSound_reports (es := []) hs (tick_reports s.plan _) rfl rfl rfl rfl
  · exact hs

theorem deliverHoldTick_conditionFields (s : State) : s.deliverHoldTick.conditionFields = s.conditionFields := by
  simp [State.conditionFields]

theorem tickHolds_conditionFields (s : State) : s.tickHolds.conditionFields = s.conditionFields := by
  simp [State.conditionFields]

theorem tickPlan_conditionsSound (hs : s.conditionsSound) (carried : Option Nat) :
    (s.tickPlan carried).conditionsSound := by
  unfold State.tickPlan
  split
  · split
    · exact conditionsSound_congr rfl hs
    · exact takePlan_conditionsSound hs (tick_reports _ _)
  · exact takePlan_conditionsSound hs (tick_reports _ _)

/-- The tick that passes the last minute announces CLOCK_UNSET (R131). -/
theorem countTick_conditionsSound (hs : s.conditionsSound) : s.countTick.conditionsSound := by
  refine hs.announced .inl .inl .inl fun h => ?_
  cases hc : s.clock with
  | none => exact .inl rfl
  | some c =>
    rw [countTick_clock, hc] at h
    rw [h]
    exact .inr (announces_set _ _ _)

theorem minuteTick_conditionsSound (hs : s.conditionsSound) (examined : Option Nat) :
    (s.minuteTick examined).conditionsSound := by
  have held : s.deliverPlanTick.deliverHoldTick.conditionsSound :=
    conditionsSound_congr (deliverHoldTick_conditionFields _) (deliverPlanTick_conditionsSound hs)
  have finished : s.finishTick.conditionsSound := conditionsSound_boundary.finishBoundary held
  have charged := conditionsSound_boundary.runOn (countTick_conditionsSound finished) examined
  have ticked : ((s.finishTick.countTick.runOn examined).onTransports
      Transport.countMinute).tickHolds.conditionsSound :=
    conditionsSound_congr (tickHolds_conditionFields _) (onTransports_conditionsSound charged countMinute_keepsStates)
  exact tickPlan_conditionsSound ticked _

theorem takeTick_conditionsSound (hs : s.conditionsSound) (examined : Option Nat) :
    (s.takeTick examined).conditionsSound := by
  unfold State.takeTick
  split
  · exact conditionsSound_boundary.runOn hs examined
  · exact minuteTick_conditionsSound hs examined

theorem takeBoundary_conditionsSound (hs : s.conditionsSound) : s.takeBoundary.conditionsSound := by
  have kept := conditionsSound_boundary
  have begun : s.cutTaken.conditionsSound := conditionsSound_congr rfl hs
  unfold State.takeBoundary
  split
  · exact hs
  · split
    · exact kept.deliverRoll (kept.deliverSnapshot begun) _
    · exact kept.deliverSnapshot begun
    · exact kept.deliverRoll begun _

/-! ### Checkpoints (R168) -/

theorem endCheckpoint_latched {b : Nat} (h : s.alerts.latched.getLsbD b = true) :
    s.endCheckpoint.alerts.latched.getLsbD b = true := by
  have begun : ∀ (u : State) k, State.alerts
      (if s.ckpt.pending then { u with ckpt := k }.beginCheckpoint else u) = u.alerts := by
    intro u k
    split <;> rfl
  unfold State.endCheckpoint
  dsimp only
  rw [begun]
  split <;> exact take_latched_of _ h

theorem finishRecord_latched {b : Nat} (copy : RecordCopy) (result : WriteResult)
    (h : s.alerts.latched.getLsbD b = true) : (s.finishRecord copy result).alerts.latched.getLsbD b = true := by
  unfold State.finishRecord State.nextRecord
  split
  · exact h
  · exact endCheckpoint_latched h

theorem recordWritten_conditionsSound (hs : s.conditionsSound) (result : WriteResult) :
    (s.recordWritten result).conditionsSound := by
  refine conditionsSound_latching (recordWritten_transports s result) (recordWritten_plan s result)
    (recordWritten_clock s result) (fun b h => ?_) hs
  unfold State.recordWritten
  split
  · split
    · exact finishRecord_latched _ _ h
    · exact h
  · exact finishRecord_latched _ _ h
  · exact h
  · exact h
  · exact h

/-! ### Start-ups (R131, R173 to R175) -/

theorem beginStartup_conditionsSound (s : State) (store : Store) (erasing : Bool) :
    (s.beginStartup store erasing).conditionsSound := conditionsSound_of_fresh rfl rfl rfl

/-- The plan's fresh value has no entry. -/
theorem conditionsSound_freshPlan (hs : s.conditionsSound) (ht : u.transports = s.transports) (hp : u.plan = .fresh)
    (hc : u.clock = s.clock)
    (hl : ∀ b, s.alerts.latched.getLsbD b = true → u.alerts.latched.getLsbD b = true) : u.conditionsSound := by
  rw [State.conditionsSound, ht, hp, hc]
  exact ⟨fun h => hl _ (hs.slip h), fun h => hl _ (hs.sensorFail h), fun h => absurd h (by decide),
    fun h => hl _ (hs.clockUnset h)⟩

theorem restoreHeader_latched (s : State) (st : Store) :
    (s.restoreHeader st).alerts.latched = s.alerts.latched := by
  unfold State.restoreHeader
  split <;> rfl

theorem restore_conditionsSound (hs : s.conditionsSound) : s.restore.conditionsSound := by
  unfold State.restore
  split
  · exact hs
  · refine conditionsSound_freshPlan hs (by simp) (by simp) (by simp) fun b h => ?_
    rw [restoreElements_alerts]
    exact takeAll_latched_of _ _ _ (by rwa [restoreHeader_latched])

theorem takeStartup_conditionsSound (hs : s.conditionsSound) (acts : Option Nat) :
    (s.takeStartup acts).conditionsSound := by
  cases acts with
  | none => exact conditionsSound_freshPlan (restore_conditionsSound hs) rfl rfl rfl fun _ => id
  | some n => exact restore_conditionsSound hs

theorem replySent_conditionsSound (hs : s.conditionsSound) : s.replySent.conditionsSound := by
  unfold State.replySent
  split
  · split
    · exact conditionsSound_congr rfl hs
    · exact beginStartup_conditionsSound _ _ _
    · exact beginStartup_conditionsSound _ _ _
  · exact hs

/-! ### Requests on the clock, the options and the alerts (R130 to R133, R188, R192) -/

/-- The clock is set, so CLOCK_UNSET no longer holds, and the replan settles the plan's condition. -/
theorem setClockWork_conditionsSound (hs : s.conditionsSound) (v : Nat) :
    (setClockWork v s).state.conditionsSound := by
  unfold setClockWork
  split_ifs
  · exact hs
  · exact hs
  · refine replan_settles (p := s.plan) (ts := s.transports) ?_ rfl
    exact hs.announced .inl .inl .inl fun h => by cases h

theorem setOptionsWork_conditionsSound (hs : s.conditionsSound) (fields : OptionFields) :
    (setOptionsWork fields s).state.conditionsSound := by
  unfold setOptionsWork
  split
  · exact hs
  · split
    · exact hs
    · dsimp only [accept]
      unfold State.putOptions
      split
      · exact conditionsSound_congr rfl hs
      · exact conditionsSound_congr rfl (conditionsSound_boundary.finishBoundary hs)

/-- The latched bits that FETCH ALERTS clears are of no condition that holds (R192). -/
theorem clearFetched_conditionsLatched (mask : BitVec 32) (h : s.conditionsLatched) :
    (s.clearFetched mask).conditionsLatched := by
  have bits : (s.clearFetched mask).conditionBits = s.conditionBits := rfl
  rw [State.conditionsLatched, bits]
  apply BitVec.eq_of_getLsbD_eq
  intro b hb
  have hold := congrArg (fun v => v.getLsbD b) h
  simp only [State.clearFetched, BitVec.getLsbD_and, BitVec.getLsbD_not, hb, decide_true, Bool.true_and] at hold ⊢
  cases hc : s.conditionBits.getLsbD b with
  | false => simp
  | true => simpa [hc] using hold

theorem fetchAlertsWork_conditionsSound (hs : s.conditionsSound) (mask : BitVec 32) :
    (fetchAlertsWork mask s).state.conditionsSound := by
  unfold fetchAlertsWork
  split_ifs
  · exact (conditionsLatched_iff _).1 (clearFetched_conditionsLatched mask ((conditionsLatched_iff s).2 hs))
  · exact hs

/-! ### Requests on elements (R12 to R22) -/

theorem assignElementWork_conditionsSound (hs : s.conditionsSound) (n : Nat) (fields : SettingFields) (a : Nat) :
    (assignElementWork n fields a s).state.conditionsSound := by
  unfold assignElementWork
  split
  · exact hs
  · split
    · exact hs
    · split
      · exact hs
      · refine handOff_conditionsSound ?_ _ _
        exact conditionsSound_congr rfl hs

/-- The element's entry leaves the plan as the element's record changes. -/
theorem dropEntry_conditionsSound (hs : s.conditionsSound) (i : Nat) : (s.dropEntry i).conditionsSound :=
  takePlan_conditionsSound hs (removalNotice_reports s.plan i)

theorem replaceElementWork_conditionsSound (hs : s.conditionsSound) (n : Nat) :
    (replaceElementWork n s).state.conditionsSound := by
  unfold replaceElementWork
  split
  · exact hs
  · split
    · exact hs
    · rename_i f hf
      have fitted : (s.fit n f.replaced).conditionsSound := conditionsSound_congr rfl hs
      exact conditionsSound_congr rfl (dropEntry_conditionsSound fitted n)

theorem retireElementWork_conditionsSound (hs : s.conditionsSound) (n : Nat) :
    (retireElementWork n s).state.conditionsSound := by
  have vacated : (s.vacate n).conditionsSound := conditionsSound_congr rfl hs
  unfold retireElementWork
  dsimp only
  split
  · exact hs
  · split
    · exact hs
    · exact vacated
    · exact conditionsSound_congr rfl (dropEntry_conditionsSound vacated n)

theorem setThresholdsWork_conditionsSound (hs : s.conditionsSound) (n advisory due limit : Nat) :
    (setThresholdsWork n advisory due limit s).state.conditionsSound := by
  unfold setThresholdsWork
  split
  · exact hs
  · split
    · exact hs
    · split
      · exact hs
      · split
        · exact handOff_conditionsSound hs _ _
        · exact hs

theorem recost_conditionsSound (hs : s.conditionsSound) (i old new : Nat) : (s.recost i old new).conditionsSound := by
  unfold State.recost
  split
  · exact hs
  · exact takePlan_conditionsSound hs (costNotice_reports s.plan i new)

theorem setWeightsWork_conditionsSound (hs : s.conditionsSound) (n : Nat) (fields : WeightFields) :
    (setWeightsWork n fields s).state.conditionsSound := by
  unfold setWeightsWork
  split
  · exact hs
  · split
    · exact hs
    · rename_i f hf
      split
      · exact hs
      · rename_i v hv
        have reweighed : (s.setFitting n { f with settings := v }).conditionsSound := conditionsSound_congr rfl hs
        exact conditionsSound_congr rfl (recost_conditionsSound reweighed n f.settings.cost v.cost)

/-! ### Requests on the plan (R143, R144, R158, R159) -/

theorem addWindowWork_conditionsSound (hs : s.conditionsSound) (start length capacity : Nat) :
    (addWindowWork start length capacity s).state.conditionsSound := by
  unfold addWindowWork
  split
  · exact hs
  · split
    · split
      · exact setPlan_replan_conditionsSound hs _
      · exact hs
    · exact hs

theorem removeWindowWork_conditionsSound (hs : s.conditionsSound) (k : Nat) :
    (removeWindowWork k s).state.conditionsSound := by
  unfold removeWindowWork
  split
  · exact hs
  · split
    · exact setPlan_replan_conditionsSound hs _
    · exact hs

theorem pinElement_conditionsSound (hs : s.conditionsSound) (c i k : Nat) (f : Fitting) :
    (s.pinElement c i k f).conditionsSound := by
  have raised := hs.raised (s.plan.pin c (s.pinEntry i f) k).2
  exact replan_settles (p := s.plan) (ts := s.transports) raised rfl

theorem pinWork_conditionsSound (hs : s.conditionsSound) (n k : Nat) : (pinWork n k s).state.conditionsSound := by
  unfold pinWork
  split
  · exact hs
  · split
    · exact hs
    · exact hs
    · exact hs
    · split
      · exact pinElement_conditionsSound hs _ _ _ _
      · exact hs

theorem unpinWork_conditionsSound (hs : s.conditionsSound) (n : Nat) : (unpinWork n s).state.conditionsSound := by
  unfold unpinWork
  split
  · exact hs
  · split
    · exact setPlan_replan_conditionsSound hs _
    · exact hs

/-! What the work of the other requests leaves as it is: all that the law reads. -/

theorem startWork_conditionFields (s : State) : (startWork s).state.conditionFields = s.conditionFields := by
  unfold startWork
  split_ifs <;> rfl

theorem stopWork_conditionFields (s : State) : (stopWork s).state.conditionFields = s.conditionFields := by
  unfold stopWork
  split_ifs
  · exact triggerCheckpoint_conditionFields _
  · rfl

theorem wipeWork_conditionFields (s : State) : (wipeWork s).state.conditionFields = s.conditionFields := by
  unfold wipeWork
  split_ifs <;> rfl

theorem waiveHoldWork_conditionFields (n setting : Nat) (s : State) :
    (waiveHoldWork n setting s).state.conditionFields = s.conditionFields := by
  unfold waiveHoldWork
  (repeat' split) <;> rfl

theorem abortHoldWork_conditionFields (k : Nat) (s : State) :
    (abortHoldWork k s).state.conditionFields = s.conditionFields := by
  unfold abortHoldWork
  (repeat' split) <;> rfl

theorem releaseHoldWork_conditionFields (t : Nat) (s : State) :
    (releaseHoldWork t s).state.conditionFields = s.conditionFields := by
  unfold releaseHoldWork
  split <;> rfl

theorem setWatchWork_conditionFields (n : Nat) (s : State) :
    (setWatchWork n s).state.conditionFields = s.conditionFields := by
  unfold setWatchWork
  split <;> rfl

theorem armCaptureWork_conditionFields (level scope : Nat) (s : State) :
    (armCaptureWork level scope s).state.conditionFields = s.conditionFields := by
  unfold armCaptureWork
  split <;> rfl

theorem editMap_conditionFields (s : State) (ok : Bool) (m : RouteMap) (reply : List Byte) :
    (s.editMap ok m reply).state.conditionFields = s.conditionFields := by
  unfold State.editMap
  split_ifs <;> rfl

theorem saveWork_conditionFields (s : State) : (saveWork s).state.conditionFields = s.conditionFields := by
  unfold saveWork
  split <;> exact triggerCheckpoint_conditionFields _

theorem setNoticeMaskWork_conditionFields (mask : BitVec 32) (s : State) :
    (setNoticeMaskWork mask s).state.conditionFields = s.conditionFields := by
  unfold setNoticeMaskWork
  split_ifs <;> rfl

/-! ### Rows -/

theorem request_conditionsSound {i : Instr} {work : State → Answer} (hs : s.conditionsSound)
    (hw : (work s).state.conditionFields = s.conditionFields) : Lands State.conditionsSound (s.request i work) :=
  request_lands conditionsSound_host hs (conditionsSound_congr hw hs)

theorem act_conditionsSound {f : State → State} (hs : s.conditionsSound)
    (hf : (f s).conditionFields = s.conditionFields) : Lands State.conditionsSound (s.act f) :=
  act_lands conditionsSound_host hs (conditionsSound_congr hf hs)

/-- Every row of a request keeps the conditions' latched bits. -/
theorem request_row_conditionsSound (i : Instr) (s : State) (hi : requestCommand i ≠ none)
    (hs : s.conditionsSound) : Lands State.conditionsSound (exec i s) := by
  have works : ∀ {i : Instr} {work : State → Answer}, (work s).state.conditionsSound →
      Lands State.conditionsSound (s.request i work) := fun h => request_lands conditionsSound_host hs h
  cases i with
  | setClock v => exact works (setClockWork_conditionsSound hs v)
  | start => exact request_conditionsSound hs (startWork_conditionFields s)
  | stop => exact request_conditionsSound hs (stopWork_conditionFields s)
  | wipe => exact request_conditionsSound hs (wipeWork_conditionFields s)
  | setOptions fields => exact works (setOptionsWork_conditionsSound hs fields)
  | assignElement n fields a => exact works (assignElementWork_conditionsSound hs n fields a)
  | replaceElement n => exact works (replaceElementWork_conditionsSound hs n)
  | retireElement n => exact works (retireElementWork_conditionsSound hs n)
  | setThresholds n a d l => exact works (setThresholdsWork_conditionsSound hs n a d l)
  | setWeights n fields => exact works (setWeightsWork_conditionsSound hs n fields)
  | waiveHold n setting => exact request_conditionsSound hs (waiveHoldWork_conditionFields n setting s)
  | abortHold k => exact request_conditionsSound hs (abortHoldWork_conditionFields k s)
  | releaseHold t => exact request_conditionsSound hs (releaseHoldWork_conditionFields t s)
  | setWatch n => exact request_conditionsSound hs (setWatchWork_conditionFields n s)
  | armCapture level scope => exact request_conditionsSound hs (armCaptureWork_conditionFields level scope s)
  | setMask _ _ | setRoute _ _ _ _ _ | clearRoute _ | setCommonPath _ =>
    exact request_conditionsSound hs (editMap_conditionFields s _ _ _)
  | addWindow start length capacity => exact works (addWindowWork_conditionsSound hs start length capacity)
  | removeWindow k => exact works (removeWindowWork_conditionsSound hs k)
  | pin n k => exact works (pinWork_conditionsSound hs n k)
  | unpin n => exact works (unpinWork_conditionsSound hs n)
  | replan => exact request_lands conditionsSound_host hs (replan_conditionsSound hs)
  | save => exact request_conditionsSound hs (saveWork_conditionFields s)
  | readSaveStatus => exact execReadSaveStatus_lands conditionsSound_host hs
  | fetchAlerts mask => exact works (fetchAlertsWork_conditionsSound hs mask)
  | setNoticeMask mask => exact request_conditionsSound hs (setNoticeMaskWork_conditionFields mask s)
  | readElement _ | listElements _ _ _ | readRoute _ | readRouteCounts _ | readTransport _
  | readIntervalCounts _ _ | readPlan _ | readWindows _ => exact request_conditionsSound hs (by split <;> rfl)
  | status | restart | readOptions | clearCounts | readWatch | readCapture | readHolds =>
    exact request_conditionsSound hs rfl
  | _ => exact absurd rfl hi

/-- Every row keeps the conditions' latched bits. -/
theorem row_conditionsSound (i : Instr) (s : State) (hs : s.conditionsSound) :
    Lands State.conditionsSound (exec i s) := by
  have host := conditionsSound_host
  cases i with
  | powerOn => exact lands_next.2 (host.chosen _ (beginStartup_conditionsSound _ _ _))
  | resetPin erased =>
    exact act_lands (f := fun s => s.beginStartup (s.storeAtReset erased) false) host hs
      (beginStartup_conditionsSound _ _ _)
  | powerLoss tear erased torn =>
    refine lands_next.2 ?_
    split
    · exact conditionsSound_of_fresh rfl rfl rfl
    · exact hs
  | startupEnd =>
    refine act_lands host hs ?_
    split
    · exact takeStartup_conditionsSound (s := s.cutTaken) (conditionsSound_congr rfl hs) _
    · exact hs
  | lineRecordArrival bytes =>
    exact act_lands (f := (·.lineBytes bytes)) host hs (lineBytes_conditionsSound hs bytes)
  | lineRecordAbandoned => exact act_lands host hs (lineGap_conditionsSound hs)
  | takeRecord => exact act_lands host hs (takeRecord_conditionsSound hs)
  | lineTxSent => exact act_conditionsSound (f := fun s => { s with hold := s.hold.headSent _ }) hs rfl
  | holdTimerExpiry slot =>
    exact act_lands (f := (·.expireSlot slot)) host hs
      (conditionsSound_raised hs rfl rfl rfl (expireSlot_alerts s slot))
  | minuteTick =>
    refine act_lands host hs ?_
    split
    · exact takeTick_conditionsSound (s := s.cutTaken) (conditionsSound_congr rfl hs) _
    · exact hs
  | deferralEnd => exact act_conditionsSound hs (deliverHoldTick_conditionFields s)
  | windowExpiry => exact act_lands host hs (deliverPlanTick_conditionsSound hs)
  | intervalBoundary => exact act_lands host hs (takeBoundary_conditionsSound hs)
  | checkpointRecordWritten result =>
    exact act_lands (f := (·.recordWritten result)) host hs (recordWritten_conditionsSound hs result)
  | hostReplySent =>
    exact execHostReplySent_lands host (fun _ => conditionsSound_congr rfl) (fun _ => replySent_conditionsSound)
      request_row_conditionsSound hs
  | busyReplySent => exact act_conditionsSound hs (by simp [State.conditionFields])
  | noticeSent => exact act_conditionsSound hs (by simp [State.conditionFields])
  | lineByteReceived b => exact act_lands (f := (·.lineByte b)) host hs (lineByte_conditionsSound hs b)
  | hostFrameComplete bytes => exact act_conditionsSound (f := (·.hostReceive bytes)) hs rfl
  | hostFrameAbandoned =>
    exact act_conditionsSound (f := fun s => { s with host := { s.host with rx := .hunting } }) hs rfl
  | hostByteReceived b => exact act_conditionsSound (f := (·.hostReceive [b])) hs rfl
  | _ => exact request_row_conditionsSound _ s (by simp [requestCommand]) hs

/-- Settles O57: every row keeps the conditions' latched bits, and taking a command off the queue changes neither. -/
theorem conditionsLatchedKept : Obligations.ConditionsLatchedKept := by
  intro s t hs h
  have hsound : s.conditionsSound := (conditionsLatched_iff s).1 hs
  exact (conditionsLatched_iff t).2
    (step_keeps (P := State.conditionsSound) (fun _ _ => conditionsSound_congr rfl) row_conditionsSound hsound t h)

end Sys2Proof.Machine
end

section
/-! FETCH ALERTS and SET NOTICE MASK: the masks they accept, what a fetch returns and clears; and what the latch and the
pending set do with an alert (R190 to R193; notes/assumptions/14.md). -/

namespace Sys2Proof.Machine

/-! ### Masks (R192, R193) -/

theorem maskOk_iff (mask : BitVec 32) : maskOk mask = true ↔ ∀ n, 19 ≤ n → mask.getLsbD n = false := by
  rw [maskOk, beq_iff_eq]
  constructor
  · intro h n hn
    have hbit := congrArg (fun v => v.getLsbD (n - 19)) h
    simpa [Nat.add_sub_cancel' hn] using hbit
  · intro h
    apply BitVec.eq_of_getLsbD_eq
    intro n _
    simpa using h (19 + n) (Nat.le_add_right 19 n)

theorem maskOk_of_high_bit {mask : BitVec 32} (h : ∃ n, 19 ≤ n ∧ mask.getLsbD n = true) : maskOk mask = false := by
  obtain ⟨n, hn, hbit⟩ := h
  rw [Bool.eq_false_iff, ne_eq, maskOk_iff]
  exact fun hall => by simp [hall n hn] at hbit

variable {s : State} {mask : BitVec 32}

theorem fetchAlertsWork_refuses (h : maskOk mask = false) : fetchAlertsWork mask s = refuse s .badValue := by
  rw [fetchAlertsWork, h]
  rfl

theorem fetchAlertsWork_accepts (h : maskOk mask = true) :
    fetchAlertsWork mask s = accept (s.clearFetched mask) (s.fetchBytes mask) := if_pos h

theorem setNoticeMaskWork_refuses (h : maskOk mask = false) : setNoticeMaskWork mask s = refuse s .badValue := by
  rw [setNoticeMaskWork, h]
  rfl

theorem setNoticeMaskWork_accepts (h : maskOk mask = true) :
    setNoticeMaskWork mask s = accept { s with alerts := { s.alerts with mask := mask.setWidth 19 } } [] := if_pos h

/-! ### What a fetch returns and clears (R192) -/

theorem fetched_getLsbD {k : Nat} (hk : k < 19) :
    (s.fetched mask).getLsbD k = (s.alerts.latched.getLsbD k && mask.getLsbD k) := by
  simp [State.fetched, hk]

theorem kindsIn_fetched (s : State) (mask : BitVec 32) :
    kindsIn (s.fetched mask) =
      (List.range 19).filter fun k => s.alerts.latched.getLsbD k && mask.getLsbD k :=
  List.filter_congr fun _ hk => fetched_getLsbD (List.mem_range.1 hk)

theorem fetchBytes_eq (s : State) (mask : BitVec 32) :
    s.fetchBytes mask =
      u32 (s.alerts.latched &&& mask.setWidth 19).toNat ++
        ((List.range 19).filter fun k => s.alerts.latched.getLsbD k && mask.getLsbD k).flatMap
          fun k => u16 (tget s.alerts.subjects k 0) := by
  rw [State.fetchBytes, kindsIn_fetched]
  rfl

/-- A latched bit stays where the mask does not select it or its condition holds. -/
theorem clearFetched_getLsbD {k : Nat} (hk : k < 19) :
    (s.clearFetched mask).alerts.latched.getLsbD k =
      (s.alerts.latched.getLsbD k && (!mask.getLsbD k || s.conditionBits.getLsbD k)) := by
  simp only [State.clearFetched, BitVec.getLsbD_and, BitVec.getLsbD_not, fetched_getLsbD hk, hk, decide_true,
    Bool.true_and]
  cases s.alerts.latched.getLsbD k <;> simp

/-- Settles O30: the two requests by whether the mask has a bit above 18; an alert by its event, as `AlertUnit.take`
gives it. -/
theorem alertRequests : Obligations.AlertRequests := by
  refine ⟨fun s code mask => ⟨fun hs => ⟨fun hbad => ?_, fun hok => ?_⟩, fun hs => ⟨fun hbad => ?_, fun hok => ?_⟩⟩,
    fun a kind subject => ⟨rfl, rfl, rfl, rfl⟩⟩
  · exact request_refuses hs (fetchAlertsWork_refuses (maskOk_of_high_bit hbad))
  · refine ⟨(s.clearFetched mask).alerts.latched, ?_, fun k hk => clearFetched_getLsbD hk⟩
    rw [← fetchBytes_eq]
    exact request_accepts hs (fetchAlertsWork_accepts ((maskOk_iff mask).2 hok))
  · exact request_refuses hs (setNoticeMaskWork_refuses (maskOk_of_high_bit hbad))
  · exact request_accepts hs (setNoticeMaskWork_accepts ((maskOk_iff mask).2 hok))

end Sys2Proof.Machine
end

section
/-! What the host transmitter begins: nothing while it sends, else a BUSY reply, the ready reply, or the lowest pending
notice (R184, R194). -/

namespace Sys2Proof.Machine

variable {s : State}

theorem firstMark_lowest {a : AlertUnit} {k : Nat} (hk : k < 19) (hm : a.marks.getLsbD k = true)
    (hlow : ∀ j < k, a.marks.getLsbD j = false) : a.firstMark = some k := by
  rw [AlertUnit.firstMark, List.find?_range_eq_some]
  exact ⟨hm, List.mem_range.2 hk, fun j hj => by simp [hlow j hj]⟩

theorem firstMark_none {a : AlertUnit} (h : a.marks = 0) : a.firstMark = none := by
  rw [AlertUnit.firstMark, List.find?_eq_none]
  exact fun k _ => by simp [h]

/-- With no BUSY reply owed and no reply ready, the lowest marked notice is begun. -/
theorem arbitrate_lowest {k : Nat} (ht : s.host.tx = none) (hb : s.host.busy = [])
    (hr : ∀ code r, s.host.inHand ≠ some ⟨code, .ready r⟩) (hk : s.alerts.firstMark = some k) :
    s.arbitrate =
      { s with
        host := { s.host with tx := some (s.noticeOf k) }
        alerts := { s.alerts with marks := s.alerts.marks &&& ~~~(BitVec.twoPow 19 k) } } := by
  rw [arbitrate_notice ht hb hr, hk]

theorem arbitrate_rests (ht : s.host.tx = none) (hb : s.host.busy = [])
    (hr : ∀ code r, s.host.inHand ≠ some ⟨code, .ready r⟩) (hm : s.alerts.firstMark = none) : s.arbitrate = s := by
  rw [arbitrate_notice ht hb hr, hm]

/-- Settles O7: by what the transmitter is sending, the BUSY list, the request in hand and the marks, in that order. -/
theorem transmitterChoice : Obligations.TransmitterChoice := fun _ =>
  ⟨arbitrate_sending, fun ht =>
    ⟨fun _ _ => arbitrate_busy ht, fun hb =>
      ⟨fun _ _ => arbitrate_reply ht hb, fun hr =>
        ⟨fun _ hk hm hlow => arbitrate_lowest ht hb hr (firstMark_lowest hk hm hlow),
          fun hm => arbitrate_rests ht hb hr (firstMark_none hm)⟩⟩⟩⟩

end Sys2Proof.Machine
end

section
/-! One byte on the host link in each receive state, the bytes of a whole frame, and an abandoned frame (R179, R181). -/

namespace Sys2Proof.Machine

/-! ### The receive states (R181) -/

theorem hostStep_other {b : Byte} (h : b ≠ 0xA5) : HostRx.step .hunting b = (.hunting, none) := by
  rw [HostRx.step, if_neg h]

theorem hostStep_length {b : Byte} (h : 1 ≤ b.toNat ∧ b.toNat ≤ 241) :
    HostRx.step .header b = (.payload b.toNat [], none) := by
  rw [HostRx.step, if_pos h]

theorem hostStep_badLength {b : Byte} (h : b.toNat = 0 ∨ 242 ≤ b.toNat) :
    HostRx.step .header b = (.hunting, none) := by
  rw [HostRx.step, if_neg (by omega)]

theorem hostStep_more {n : Nat} {stored : List Byte} (b : Byte) (h : stored.length + 1 ≠ n) :
    HostRx.step (.payload n stored) b = (.payload n (stored ++ [b]), none) := by
  rw [HostRx.step, if_neg (by rwa [List.length_append])]

theorem hostStep_last {n : Nat} {stored : List Byte} (b : Byte) (h : stored.length + 1 = n) :
    HostRx.step (.payload n stored) b = (.check (stored ++ [b]) none, none) := by
  rw [HostRx.step, if_pos (by rwa [List.length_append])]

/-! ### Bytes and frames (R181, R183) -/

variable {s : State} {b : Byte}

theorem hostReceive_of_step {rx : HostRx} (h : s.host.rx.step b = (rx, none)) :
    s.hostReceive [b] = { s with host := { s.host with rx := rx } } := by
  rw [State.hostReceive, List.foldl_cons, List.foldl_nil, receive_of_step h]

theorem hostReceive_rests (h : s.host.rx.step b = (s.host.rx, none)) : s.hostReceive [b] = s :=
  hostReceive_of_step h

theorem hostReceive_completes {rx : HostRx} {f : HostFrame} (h : s.host.rx.step b = (rx, some f)) :
    s.hostReceive [b] = { s with host := HostLink.complete s.engine f { s.host with rx := rx } } := by
  simp only [State.hostReceive, List.foldl_cons, List.foldl_nil, HostLink.receive, h]

/-- The bytes of a whole frame complete it. -/
theorem hostReceive_hostFrame {body : List Byte} (h : s.host.rx = .hunting) (h1 : 1 ≤ body.length)
    (h2 : body.length ≤ 241) :
    s.hostReceive (hostFrame body) = { s with host := s.host.complete s.engine ⟨body, hostCheck body⟩ } := by
  rw [State.hostReceive, receive_hostFrame _ _ _ h h1 h2]

/-- Settles O3: each byte by the receive state it finds, a frame's bytes by `receive_hostFrame`. -/
theorem hostBytes : Obligations.HostBytes := by
  intro s hp
  refine ⟨fun b => ?bytes, fun body h h1 h2 =>
      becomes_of_act (f := (·.hostReceive (hostFrame body))) hp rfl (hostReceive_hostFrame h h1 h2),
    becomes_of_act (f := fun s => { s with host := { s.host with rx := .hunting } }) hp rfl rfl⟩
  have received : ∀ {u : State}, s.hostReceive [b] = u → Becomes (.hostByteReceived b) s u := fun hu =>
    becomes_of_act (f := (·.hostReceive [b])) hp rfl hu
  have moves : ∀ {before after}, s.host.rx = before → before.step b = (after, none) →
      Becomes (.hostByteReceived b) s { s with host := { s.host with rx := after } } := fun h hstep =>
    received (hostReceive_of_step (h ▸ hstep))
  exact ⟨fun h hb => received (hostReceive_rests (h.symm ▸ hostStep_other hb)), fun h hb => moves h (hb ▸ rfl),
    fun h hb => moves h (hostStep_length hb), fun h hb => moves h (hostStep_badLength hb),
    fun n stored h hn => moves h (hostStep_more b hn), fun n stored h hn => moves h (hostStep_last b hn),
    fun body h => moves h rfl, fun body low h => received (hostReceive_completes (by rw [h]; rfl))⟩

end Sys2Proof.Machine
end

section
/-! The places of a complete frame, and the tests of a taken frame with the reply of each failure (R182, R183). -/

namespace Sys2Proof.Machine

/-! ### Judging (R182) -/

/-- What the request in hand becomes by what its frame decodes to. -/
def Decoded.inHand (code : Byte) : Decoded → InHand
  | .unknownCommand => ⟨code, .ready (bareReply (replyCode code) .unknownCommand)⟩
  | .badLength => ⟨code, .ready (bareReply (replyCode code) .badLength)⟩
  | .request i => ⟨code, .executing i⟩

section Judged

variable {engine : EngineState} {code : Byte} {payload : List Byte} {check : BitVec 16}

theorem judge_badCheck (h : hostCheck (code :: payload) ≠ check) :
    judge engine ⟨code :: payload, check⟩ = ⟨code, .ready (bareReply 0x80 .badCheck)⟩ := if_pos h

theorem judge_starting (h : hostCheck (code :: payload) = check) :
    judge .starting ⟨code :: payload, check⟩ = ⟨code, .ready (bareReply (replyCode code) .starting)⟩ := by
  simp [judge, h]

/-- A frame with a matching check outside STARTING is judged by its code and its payload. -/
theorem judge_checked (h : hostCheck (code :: payload) = check) (he : engine ≠ .starting) :
    judge engine ⟨code :: payload, check⟩ =
      if code.msb || code == 0x7F then ⟨code, .ready (bareReply 0x80 .unknownCommand)⟩
      else (decodeRequest (code.toNat % 64) payload).inHand code := by
  simp only [judge, List.headD_cons, List.tail_cons, h, ne_eq, not_true_eq_false, if_false, he, commandOf]
  rfl

theorem judge_reservedCode (h : hostCheck (code :: payload) = check) (he : engine ≠ .starting)
    (hc : code.msb = true ∨ code = 0x7F) :
    judge engine ⟨code :: payload, check⟩ = ⟨code, .ready (bareReply (replyCode code) .unknownCommand)⟩ := by
  rw [judge_checked h he, if_pos (by simpa using hc), replyCode_eq, if_pos hc]

theorem judge_decoded {d : Decoded} (h : hostCheck (code :: payload) = check) (he : engine ≠ .starting)
    (hm : code.msb = false) (h7 : code ≠ 0x7F) (hd : decodeRequest (code.toNat % 64) payload = d) :
    judge engine ⟨code :: payload, check⟩ = d.inHand code := by
  rw [judge_checked h he, if_neg (by rw [hm]; simpa using h7), hd]

end Judged

/-- Settles O4: a complete frame by what stands in hand, held and on the BUSY list; a taken one by its check, STARTING,
its code and what it decodes to. -/
theorem framesTaken : Obligations.FramesTaken := by
  refine ⟨fun h engine f => ⟨fun hin => complete_free hin engine f, fun hin hh => complete_holds hin hh engine f,
      fun hin hh hb => ?_, fun hin hh hb => ?_⟩, ?judged⟩
  · rw [complete_busy hin hh, if_pos hb]
  · rw [complete_busy hin hh, if_neg (by omega)]
  case judged =>
    intro engine code payload check f errorCode fails
    have hcode : replyCode code = errorCode := replyCode_eq code
    refine ⟨judge_badCheck, fun hc => ⟨fun he => ?_, fun he => ⟨fun hu => ?_, fun hm h7 => ⟨fun hd => ?_,
      fun i hd => judge_decoded hc he hm h7 hd⟩⟩⟩⟩
    · subst he
      rw [← hcode]
      exact judge_starting hc
    · rw [← hcode]
      by_cases hr : code.msb = true ∨ code = 0x7F
      · exact judge_reservedCode hc he hr
      · obtain ⟨hm, h7⟩ := not_or.1 hr
        exact judge_decoded hc he (by simpa using hm) h7 ((hu.resolve_left hm).resolve_left h7)
    · rw [← replyCode_of_request hm h7]
      exact judge_decoded hc he hm h7 hd

end Sys2Proof.Machine
end

section
/-! The payload of every request reads back as that request (R179, R180, R196), and its frame puts the request in hand
(R181 to R183). -/

namespace Sys2Proof.Machine

/-! ### Fields at their offsets (R180) -/

section Fields

variable {p rest : List Byte} {k n : Nat}

theorem getD_of_drop {b : Byte} (h : p.drop k = b :: rest) : p.getD k 0 = b := by
  rw [List.getD_eq_getElem?_getD, ← List.head?_drop, h]
  rfl

theorem byteAt_of_drop (h : p.drop k = u8 n ++ rest) (hn : fits8 n = true) : byteAt p k = n := by
  rw [byteAt, getD_of_drop (rest := rest) (b := BitVec.ofNat 8 n) h, BitVec.toNat_ofNat]
  exact Nat.mod_eq_of_lt (of_decide_eq_true hn)

/-- The bytes after the first of a field. -/
theorem drop_succ_of_drop {b : Byte} (h : p.drop k = b :: rest) : p.drop (k + 1) = rest := by
  rw [← List.drop_drop, h]
  rfl

theorem u16At_of_drop (h : p.drop k = u16 n ++ rest) (hn : fits16 n = true) : u16At p k = n := by
  have h1 := drop_succ_of_drop h
  simp only [u16At, byteAt, getD_of_drop h, getD_of_drop h1, BitVec.toNat_ofNat]
  exact bytes16 (of_decide_eq_true hn)

theorem u32At_of_drop (h : p.drop k = u32 n ++ rest) (hn : fits32 n = true) : u32At p k = n := by
  have h1 := drop_succ_of_drop h
  have h2 := drop_succ_of_drop h1
  have h3 := drop_succ_of_drop h2
  simp only [u32At, byteAt, getD_of_drop h, getD_of_drop h1, getD_of_drop h2, getD_of_drop h3, BitVec.toNat_ofNat]
  exact bytes32 (of_decide_eq_true hn)

theorem ofNat_u16At_of_drop {v : BitVec 16} (h : p.drop k = u16 v.toNat ++ rest) :
    BitVec.ofNat 16 (u16At p k) = v := by
  rw [u16At_of_drop h (decide_eq_true v.isLt), BitVec.ofNat_toNat, BitVec.setWidth_eq]

theorem ofNat_u32At_of_drop {v : BitVec 32} (h : p.drop k = u32 v.toNat ++ rest) :
    BitVec.ofNat 32 (u32At p k) = v := by
  rw [u32At_of_drop h (decide_eq_true v.isLt), BitVec.ofNat_toNat, BitVec.setWidth_eq]

/-- A list of bytes that ends the payload. -/
theorem listFrom_of_drop {l : List Nat} (h : p.drop k = l.map (BitVec.ofNat 8)) (hl : l.all fits8 = true) :
    listFrom p k = l := by
  rw [listFrom, h]
  exact toNat_ofNat_map l fun x hx => of_decide_eq_true (List.all_eq_true.1 hl x hx)

/-- The label's eight character bytes, written out. -/
theorem exists_chars {l : List Byte} (h : (l.length == 8) = true) :
    ∃ c0 c1 c2 c3 c4 c5 c6 c7, l = [c0, c1, c2, c3, c4, c5, c6, c7] :=
  match l, h with
  | [c0, c1, c2, c3, c4, c5, c6, c7], _ => ⟨c0, c1, c2, c3, c4, c5, c6, c7, rfl⟩

end Fields

/-! ### The requests (R196) -/

section Requests

variable {index : Nat}

/-- A payload that is one index. -/
theorem whenLength_index {g : Nat → Instr} (h : fits8 index = true) :
    whenLength 1 (u8 index) (g (byteAt (u8 index) 0)) = .request (g index) :=
  whenLength_eq rfl (congrArg g (byteAt_of_drop (rest := []) rfl h))

/-- A payload that is two indexes. -/
theorem whenLength_indexes {g : Nat → Nat → Instr} {second : Nat} (h : fits8 index = true) (h' : fits8 second = true) :
    whenLength 2 (u8 index ++ u8 second) (g (byteAt (u8 index ++ u8 second) 0) (byteAt (u8 index ++ u8 second) 1)) =
      .request (g index second) :=
  whenLength_eq rfl (congrArg₂ g (byteAt_of_drop rfl h) (byteAt_of_drop (rest := []) rfl h'))

theorem decode_setOptions {o : OptionFields} (h : o.wf = true) :
    decodeRequest 0x07 (requestPayload (.setOptions o)) = .request (.setOptions o) := by
  simp only [OptionFields.wf, Bool.and_eq_true] at h
  obtain ⟨⟨⟨⟨⟨⟨⟨⟨⟨⟨hlength, hhorizon⟩, hpercent⟩, hlimit⟩, hset⟩, hclear⟩, hfactor⟩, hdrive⟩, hanswer⟩, hdeferral⟩, hsave⟩ :=
    h
  refine whenLength_eq rfl (congrArg Instr.setOptions ?_)
  cases o
  rw [optionFieldsOf, OptionFields.mk.injEq]
  exact ⟨byteAt_of_drop rfl hlength, u16At_of_drop rfl hhorizon, byteAt_of_drop rfl hpercent,
    u16At_of_drop rfl hlimit, byteAt_of_drop rfl hset, byteAt_of_drop rfl hclear, byteAt_of_drop rfl hfactor,
    u16At_of_drop rfl hdrive, u16At_of_drop rfl hanswer, byteAt_of_drop rfl hdeferral,
    byteAt_of_drop (rest := []) rfl hsave⟩

theorem weightsAt_of_drop {p rest : List Byte} {k : Nat} {w : ClassWeights} (h : p.drop k = weightBytes w ++ rest)
    (hw : w.wf = true) : weightsAt p k = w := by
  simp only [ClassWeights.wf, Bool.and_eq_true] at hw
  obtain ⟨⟨⟨hw0, hw1⟩, hw2⟩, hw3⟩ := hw
  have h1 := drop_succ_of_drop h
  have h2 := drop_succ_of_drop h1
  have h3 := drop_succ_of_drop h2
  cases w
  rw [weightsAt, ClassWeights.mk.injEq]
  exact ⟨byteAt_of_drop h hw0, byteAt_of_drop h1 hw1, byteAt_of_drop h2 hw2, byteAt_of_drop h3 hw3⟩

theorem decode_assignElement {f : SettingFields} {a : Nat} (hi : fits8 index = true) (hf : f.wf = true)
    (ha : fits32 a = true) :
    decodeRequest 0x10 (requestPayload (.assignElement index f a)) = .request (.assignElement index f a) := by
  obtain ⟨kind, transport, ⟨count, chars⟩, weights, runWeight, jamWeight, modeSet, advisory, due, limit, quota, group,
    cost, policy⟩ := f
  simp only [SettingFields.wf, LabelField.wf, Bool.and_eq_true] at hf
  obtain ⟨⟨⟨⟨⟨⟨⟨⟨⟨⟨⟨⟨hkind, htransport⟩, hcount, hchars⟩, hweights⟩, hrun⟩, hjam⟩, hadvisory⟩, hdue⟩, hlimit⟩, hquota⟩,
    hgroup⟩, hcost⟩, hpolicy⟩ := hf
  obtain ⟨c0, c1, c2, c3, c4, c5, c6, c7, rfl⟩ := exists_chars hchars
  refine whenLength_eq (by simp [requestPayload, labelBytes, weightBytes, u8, u16, u32]) ?_
  simp only [requestPayload, List.append_assoc]
  rw [Instr.assignElement.injEq, settingFieldsOf, SettingFields.mk.injEq, labelAt, LabelField.mk.injEq]
  exact ⟨byteAt_of_drop rfl hi,
    ⟨byteAt_of_drop rfl hkind, byteAt_of_drop rfl htransport, ⟨byteAt_of_drop rfl hcount, rfl⟩,
      weightsAt_of_drop rfl hweights, byteAt_of_drop rfl hrun, u16At_of_drop rfl hjam, getD_of_drop rfl,
      u32At_of_drop rfl hadvisory, u32At_of_drop rfl hdue, u32At_of_drop rfl hlimit, u16At_of_drop rfl hquota,
      byteAt_of_drop rfl hgroup, byteAt_of_drop rfl hcost, byteAt_of_drop rfl hpolicy⟩,
    u32At_of_drop (rest := []) rfl ha⟩

theorem decode_setThresholds {advisory due limit : Nat} (hi : fits8 index = true) (ha : fits32 advisory = true)
    (hd : fits32 due = true) (hl : fits32 limit = true) :
    decodeRequest 0x13 (requestPayload (.setThresholds index advisory due limit)) =
      .request (.setThresholds index advisory due limit) := by
  refine whenLength_eq rfl ?_
  rw [Instr.setThresholds.injEq]
  exact ⟨byteAt_of_drop rfl hi, u32At_of_drop rfl ha, u32At_of_drop rfl hd, u32At_of_drop (rest := []) rfl hl⟩

theorem decode_setWeights {f : WeightFields} (hi : fits8 index = true) (hf : f.wf = true) :
    decodeRequest 0x14 (requestPayload (.setWeights index f)) = .request (.setWeights index f) := by
  obtain ⟨weights, runWeight, jamWeight, modeSet, group, cost, policy, ⟨count, chars⟩⟩ := f
  simp only [WeightFields.wf, LabelField.wf, Bool.and_eq_true] at hf
  obtain ⟨⟨⟨⟨⟨⟨hweights, hrun⟩, hjam⟩, hgroup⟩, hcost⟩, hpolicy⟩, hcount, hchars⟩ := hf
  obtain ⟨c0, c1, c2, c3, c4, c5, c6, c7, rfl⟩ := exists_chars hchars
  refine whenLength_eq rfl ?_
  rw [Instr.setWeights.injEq, weightFieldsOf, WeightFields.mk.injEq, labelAt, LabelField.mk.injEq]
  exact ⟨byteAt_of_drop rfl hi, weightsAt_of_drop rfl hweights, byteAt_of_drop rfl hrun, u16At_of_drop rfl hjam,
    getD_of_drop rfl, byteAt_of_drop rfl hgroup, byteAt_of_drop rfl hcost, byteAt_of_drop rfl hpolicy,
    byteAt_of_drop rfl hcount, rfl⟩

theorem decode_listElements {filter : BitVec 8} {transport : Nat} (hi : fits8 index = true)
    (ht : fits8 transport = true) :
    decodeRequest 0x16 (requestPayload (.listElements index filter transport)) =
      .request (.listElements index filter transport) := by
  refine whenLength_eq rfl ?_
  rw [Instr.listElements.injEq]
  exact ⟨byteAt_of_drop rfl hi, getD_of_drop rfl, byteAt_of_drop (rest := []) rfl ht⟩

theorem decode_setMask {value : BitVec 16} (hi : fits8 index = true) :
    decodeRequest 0x20 (requestPayload (.setMask index value)) = .request (.setMask index value) := by
  refine whenLength_eq rfl ?_
  rw [Instr.setMask.injEq]
  exact ⟨byteAt_of_drop rfl hi, ofNat_u16At_of_drop (rest := []) rfl⟩

theorem pathWf_iff {fixed : Nat} {path : List Nat} :
    pathWf fixed path = true ↔ path.all fits8 = true ∧ fixed + path.length ≤ 240 := by
  rw [pathWf, Bool.and_eq_true, decide_eq_true_eq]

theorem fits8_length {fixed : Nat} {path : List Nat} (h : fixed + path.length ≤ 240) : fits8 path.length = true :=
  decide_eq_true (by omega)

theorem decode_setRoute {enabled maskIndex : Nat} {pattern : BitVec 16} {path : List Nat} (hi : fits8 index = true)
    (he : fits8 enabled = true) (hm : fits8 maskIndex = true) (hp : pathWf 6 path = true) :
    decodeRequest 0x21 (requestPayload (.setRoute index enabled pattern maskIndex path)) =
      .request (.setRoute index enabled pattern maskIndex path) := by
  obtain ⟨hall, hlen⟩ := pathWf_iff.1 hp
  refine whenLength_eq ?_ ?_
  · have hcount : byteAt (requestPayload (.setRoute index enabled pattern maskIndex path)) 5 = path.length :=
      byteAt_of_drop rfl (fits8_length hlen)
    rw [hcount]
    simp [requestPayload, pathBytes, u8, u16]
    omega
  · rw [Instr.setRoute.injEq]
    exact ⟨byteAt_of_drop rfl hi, byteAt_of_drop rfl he, ofNat_u16At_of_drop rfl, byteAt_of_drop rfl hm,
      listFrom_of_drop rfl hall⟩

theorem decode_setCommonPath {path : List Nat} (hp : pathWf 1 path = true) :
    decodeRequest 0x23 (requestPayload (.setCommonPath path)) = .request (.setCommonPath path) := by
  obtain ⟨hall, hlen⟩ := pathWf_iff.1 hp
  refine whenLength_eq ?_ (congrArg Instr.setCommonPath (listFrom_of_drop rfl hall))
  have hcount : byteAt (requestPayload (.setCommonPath path)) 0 = path.length :=
    byteAt_of_drop rfl (fits8_length hlen)
  rw [hcount]
  simp [requestPayload, pathBytes, u8]
  omega

theorem decode_addWindow {start length capacity : Nat} (hs : fits32 start = true) (hl : fits16 length = true)
    (hc : fits8 capacity = true) :
    decodeRequest 0x30 (requestPayload (.addWindow start length capacity)) =
      .request (.addWindow start length capacity) := by
  refine whenLength_eq rfl ?_
  rw [Instr.addWindow.injEq]
  exact ⟨u32At_of_drop rfl hs, u16At_of_drop rfl hl, byteAt_of_drop (rest := []) rfl hc⟩

end Requests

/-- Settles O5: each request's fields stand in its payload at the offsets at which they are read. -/
theorem payloadReadsBack : Obligations.PayloadReadsBack := by
  intro i command hwf hc
  cases i with
  | setOptions o => cases hc; exact decode_setOptions hwf
  | setClock v => cases hc; exact whenLength_eq rfl (congrArg Instr.setClock (u32At_of_drop (rest := []) rfl hwf))
  | assignElement index f a =>
    cases hc
    simp only [Instr.wf, Bool.and_eq_true] at hwf
    obtain ⟨⟨hi, hf⟩, ha⟩ := hwf
    exact decode_assignElement hi hf ha
  | setThresholds index advisory due limit =>
    cases hc
    simp only [Instr.wf, Bool.and_eq_true] at hwf
    obtain ⟨⟨⟨hi, ha⟩, hd⟩, hl⟩ := hwf
    exact decode_setThresholds hi ha hd hl
  | setWeights index f =>
    cases hc
    obtain ⟨hi, hf⟩ := (Bool.and_eq_true _ _).mp hwf
    exact decode_setWeights hi hf
  | listElements first filter transport =>
    cases hc
    obtain ⟨hi, ht⟩ := (Bool.and_eq_true _ _).mp hwf
    exact decode_listElements hi ht
  | setMask index value => cases hc; exact decode_setMask hwf
  | setRoute index enabled pattern maskIndex path =>
    cases hc
    simp only [Instr.wf, Bool.and_eq_true] at hwf
    obtain ⟨⟨⟨hi, he⟩, hm⟩, hp⟩ := hwf
    exact decode_setRoute hi he hm hp
  | setCommonPath path => cases hc; exact decode_setCommonPath hwf
  | addWindow start length capacity =>
    cases hc
    simp only [Instr.wf, Bool.and_eq_true] at hwf
    obtain ⟨⟨hs, hl⟩, hc⟩ := hwf
    exact decode_addWindow hs hl hc
  | fetchAlerts mask =>
    cases hc
    exact whenLength_eq rfl (congrArg Instr.fetchAlerts (ofNat_u32At_of_drop (rest := []) rfl))
  | setNoticeMask mask =>
    cases hc
    exact whenLength_eq rfl (congrArg Instr.setNoticeMask (ofNat_u32At_of_drop (rest := []) rfl))
  | waiveHold a b | armCapture a b | readIntervalCounts a b | pin a b =>
    cases hc
    obtain ⟨ha, hb⟩ := (Bool.and_eq_true _ _).mp hwf
    exact whenLength_indexes ha hb
  | replaceElement n | retireElement n | readElement n | setWatch n | clearRoute n | readRoute n | readRouteCounts n
  | readTransport n | abortHold n | releaseHold n | removeWindow n | unpin n | readPlan n | readWindows n =>
    cases hc
    exact whenLength_index hwf
  | status | start | stop | restart | wipe | readOptions | clearCounts | readWatch | readCapture | readHolds | replan
  | save | readSaveStatus =>
    cases hc
    rfl
  | _ => cases hc

end Sys2Proof.Machine
end

section
/-! The frame of a request, received by an idle part, puts that request in hand (R179, R181 to R183). -/

namespace Sys2Proof.Machine

/-! ### The code and the length of a request's frame (R179, R196) -/

/-- The command numbers in use are below that of the reserved code 0x7F. -/
theorem requestCommand_lt {i : Instr} {command : Nat} (h : requestCommand i = some command) : command < 63 := by
  cases i <;> simp only [requestCommand, Option.some.injEq, reduceCtorEq] at h <;> omega

/-- The code byte of a command, with or without the summary flag. -/
def codeOf (command : Nat) (summary : Bool) : Byte := BitVec.ofNat 8 (command + if summary then 64 else 0)

variable {command : Nat} {summary : Bool}

theorem codeOf_toNat (h : command < 63) : (codeOf command summary).toNat = command + if summary then 64 else 0 := by
  rw [codeOf, BitVec.toNat_ofNat]
  split <;> omega

theorem codeOf_msb (h : command < 63) : (codeOf command summary).msb = false := by
  rw [BitVec.msb_eq_decide, codeOf_toNat h, decide_eq_false_iff_not]
  split <;> omega

theorem codeOf_ne_reserved (h : command < 63) : codeOf command summary ≠ 0x7F := by
  intro he
  have hn := codeOf_toNat (summary := summary) h
  rw [he, show (0x7F : Byte).toNat = 127 from rfl] at hn
  split at hn <;> omega

theorem codeOf_command (h : command < 63) : (codeOf command summary).toNat % 64 = command := by
  rw [codeOf_toNat h]
  split <;> omega

/-- A request's payload leaves room for its code in a frame (R179). -/
theorem requestPayload_length {i : Instr} (h : i.wf = true) : (requestPayload i).length ≤ 240 := by
  cases i with
  | assignElement index f a =>
    simp only [Instr.wf, SettingFields.wf, LabelField.wf, Bool.and_eq_true, beq_iff_eq] at h
    simp [requestPayload, labelBytes, weightBytes, u8, u16, u32, h]
  | setWeights index f =>
    simp only [Instr.wf, WeightFields.wf, LabelField.wf, Bool.and_eq_true, beq_iff_eq] at h
    simp [requestPayload, labelBytes, weightBytes, u8, u16, h]
  | setRoute index enabled pattern maskIndex path =>
    simp only [Instr.wf, Bool.and_eq_true, pathWf_iff] at h
    obtain ⟨-, -, hlen⟩ := h
    simp [requestPayload, pathBytes, u8, u16]
    omega
  | setCommonPath path =>
    obtain ⟨-, hlen⟩ := pathWf_iff.1 h
    simp [requestPayload, pathBytes, u8]
    omega
  | _ => simp [requestPayload, u8, u16, u32]

/-! ### The frame taken (R182, R183) -/

/-- A request's frame passes every test. -/
theorem judge_request_frame {i : Instr} {engine : EngineState} (hwf : i.wf = true)
    (hc : requestCommand i = some command) (he : engine ≠ .starting) :
    judge engine ⟨codeOf command summary :: requestPayload i,
        hostCheck (codeOf command summary :: requestPayload i)⟩ =
      ⟨codeOf command summary, .executing i⟩ := by
  have hlt := requestCommand_lt hc
  refine judge_decoded (d := .request i) rfl he (codeOf_msb hlt) (codeOf_ne_reserved hlt) ?_
  rw [codeOf_command hlt]
  exact payloadReadsBack i command hwf hc

/-- Settles O6: the frame's bytes complete that frame, nothing is in hand, and the frame passes every test. -/
theorem requestFrameDispatched : Obligations.RequestFrameDispatched := by
  intro i command s summary hwf hc hp he hrx hin
  change Becomes (.hostFrameComplete (hostFrame (codeOf command summary :: requestPayload i))) s
    { s with host := { s.host with inHand := some ⟨codeOf command summary, .executing i⟩ } }
  have hlen := requestPayload_length hwf
  refine becomes_of_act (f := (·.hostReceive (hostFrame _))) hp rfl ?_
  rw [hostReceive_hostFrame hrx (by simp) (by rw [List.length_cons]; omega), complete_free hin,
    judge_request_frame hwf hc he]

end Sys2Proof.Machine
end

section
/-! What is in hand bears on no block's action: the element table, the record in work, the boundary and the
checkpoint (R182). -/

namespace Sys2Proof.Machine

/-! ### The element table, the record in work and the boundary -/

section
variable {s : State} {h : Option InHand}

theorem ite_setInHand {c : Prop} [Decidable c] {a b a' b' : State} (ha : a' = a.setInHand h)
    (hb : b' = b.setInHand h) : (if c then a' else b') = (if c then a else b).setInHand h := by
  rw [ha, hb, apply_ite (State.setInHand · h)]

@[simp] theorem setInHand_fitting? {i : Nat} : (s.setInHand h).fitting? i = s.fitting? i := rfl

theorem triggerCheckpoint_setInHand : (s.setInHand h).triggerCheckpoint = s.triggerCheckpoint.setInHand h :=
  ite_setInHand rfl rfl

theorem deliverSnapshot_setInHand : (s.setInHand h).deliverSnapshot = s.deliverSnapshot.setInHand h :=
  ite_setInHand rfl rfl

theorem runCharge_setInHand {carried : Option Nat} {i : Nat} :
    runCharge carried (s.setInHand h) i = (runCharge carried s i).setInHand h := by
  dsimp only [runCharge, setInHand_fitting?]
  cases s.fitting? i with
  | none => rfl
  | some f => exact ite_setInHand rfl rfl

theorem jamCharge_setInHand {t severity i : Nat} :
    jamCharge t severity (s.setInHand h) i = (jamCharge t severity s i).setInHand h := by
  dsimp only [jamCharge, setInHand_fitting?]
  cases s.fitting? i with
  | none => rfl
  | some f => exact ite_setInHand rfl rfl

theorem foldl_setInHand {α : Type} {f : State → α → State}
    (hf : ∀ u a, f (u.setInHand h) a = (f u a).setInHand h) (l : List α) :
    l.foldl f (s.setInHand h) = (l.foldl f s).setInHand h :=
  List.foldl_hom (State.setInHand · h) hf

theorem runOn_setInHand {examined : Option Nat} :
    (s.setInHand h).runOn examined = (s.runOn examined).setInHand h := by
  dsimp only [State.runOn, setInHand_timer]
  cases s.timer.runs with
  | none => rfl
  | some p =>
    dsimp only
    rw [foldl_setInHand fun _ _ => runCharge_setInHand]
    rfl

theorem handOffTransports_setInHand {ts : List Nat} :
    (s.setInHand h).handOffTransports ts = (s.handOffTransports ts).setInHand h :=
  foldl_setInHand (fun _ _ => rfl) _

theorem rollComplete_setInHand : (s.setInHand h).rollComplete = s.rollComplete.setInHand h :=
  ite_setInHand (triggerCheckpoint_setInHand (s := s.replan)) rfl

theorem rollOn_setInHand {carried examined : Option Nat} {next : Nat} :
    (s.setInHand h).rollOn carried next examined = (s.rollOn carried next examined).setInHand h := by
  let rolled : State :=
    { s with elements := rollTable s.options.intervalLength carried next (examined.getD 240) s.elements }
  exact ite_setInHand rfl (rollComplete_setInHand (s := rolled.setBoundary none))

/-- A charged record is waited for; else the roll begins (R136). -/
theorem awaitOrRoll_setInHand {carried examined : Option Nat} :
    (if (s.setInHand h).recordCharged then (s.setInHand h).setBoundary (some ⟨carried, .waits⟩)
      else (s.setInHand h).rollOn carried 0 examined) =
    (if s.recordCharged then s.setBoundary (some ⟨carried, .waits⟩)
      else s.rollOn carried 0 examined).setInHand h :=
  ite_setInHand rfl rollOn_setInHand

theorem deliverRoll_setInHand {examined : Option Nat} :
    (s.setInHand h).deliverRoll examined = (s.deliverRoll examined).setInHand h := by
  dsimp only [State.deliverRoll, setInHand_timer]
  rw [runOn_setInHand]
  match s.timer.boundary with
  | some ⟨carried, .rolling next⟩ => exact rollOn_setInHand
  | some ⟨carried, .due⟩ | some ⟨carried, .waits⟩ => exact awaitOrRoll_setInHand
  | none => rfl

theorem chargePosition_setInHand {it : Item} {acc : State × List Nat} {i : Nat} :
    chargePosition it (acc.1.setInHand h, acc.2) i =
      ((chargePosition it acc i).1.setInHand h, (chargePosition it acc i).2) := by
  dsimp only [chargePosition, setInHand_fitting?]
  cases acc.1.fitting? i with
  | none => rfl
  | some f =>
    by_cases hc : acc.1.wear.mode.counts f.settings.modeSet = true
    · have hc' : (acc.1.setInHand h).wear.mode.counts f.settings.modeSet = true := hc
      simp only [if_pos hc, if_pos hc']
      rfl
    · have hc' : ¬ (acc.1.setInHand h).wear.mode.counts f.settings.modeSet = true := hc
      simp only [if_neg hc, if_neg hc']

theorem chargePositions_setInHand {it : Item} {path ts : List Nat} :
    path.foldl (chargePosition it) (s.setInHand h, ts) =
      ((path.foldl (chargePosition it) (s, ts)).1.setInHand h, (path.foldl (chargePosition it) (s, ts)).2) :=
  List.foldl_hom (init := (s, ts)) (fun acc : State × List Nat => (acc.1.setInHand h, acc.2))
    fun _ _ => chargePosition_setInHand

theorem itemWork_setInHand {acts : Option Nat} {it : Item} {path transports : List Nat} :
    (s.setInHand h).itemWork acts it path transports = (s.itemWork acts it path transports).setInHand h := by
  dsimp only [State.itemWork]
  rw [chargePositions_setInHand]
  exact ite_setInHand rfl (congrArg State.recordDone handOffTransports_setInHand)

theorem jamWork_setInHand {acts : Option Nat} {t severity next : Nat} {charged : Bool} :
    (s.setInHand h).jamWork acts t severity next charged =
      (s.jamWork acts t severity next charged).setInHand h := by
  dsimp only [State.jamWork]
  rw [foldl_setInHand fun _ _ => jamCharge_setInHand]
  exact ite_setInHand rfl rfl

theorem goOn_setInHand {acts : Option Nat} : (s.setInHand h).goOn acts = (s.goOn acts).setInHand h := by
  dsimp only [State.goOn, setInHand_wear]
  cases s.wear.work with
  | none => rfl
  | some w =>
    cases w with
    | item it path transports => exact itemWork_setInHand (s := s.setWork none)
    | jam t severity next charged => exact jamWork_setInHand (s := s.setWork none)

/-- A charged record in work is finished. -/
theorem finishRecord_setInHand :
    (if (s.setInHand h).recordCharged then (s.setInHand h).goOn none else s.setInHand h) =
    (if s.recordCharged then s.goOn none else s).setInHand h :=
  ite_setInHand goOn_setInHand rfl

theorem finishBoundary_setInHand : (s.setInHand h).finishBoundary = s.finishBoundary.setInHand h := by
  dsimp only [State.finishBoundary, setInHand_timer]
  rw [deliverSnapshot_setInHand, runOn_setInHand, finishRecord_setInHand, deliverRoll_setInHand,
    deliverRoll_setInHand]
  match s.timer.boundary with
  | some ⟨_, .rolling _⟩ | some ⟨_, .due⟩ | some ⟨_, .waits⟩ | none => rfl

theorem putOptions_setInHand {o : Options} : (s.setInHand h).putOptions o = (s.putOptions o).setInHand h := by
  dsimp only [State.putOptions, State.restartIntervals]
  rw [finishBoundary_setInHand]
  exact ite_setInHand rfl rfl

theorem recost_setInHand {i old new : Nat} : (s.setInHand h).recost i old new = (s.recost i old new).setInHand h :=
  ite_setInHand rfl rfl

theorem reweigh_setInHand {i : Nat} {f : Fitting} {v : Settings} :
    (s.setInHand h).reweigh i f v = (s.reweigh i f v).setInHand h :=
  congrArg (State.reevaluate · f.settings.transport) (recost_setInHand (s := s.setFitting i _))

end

end Sys2Proof.Machine
end

section
/-! No request's work reads or writes what is in hand (R182). -/

namespace Sys2Proof.Machine

/-- An answer with something else in hand. -/
def Answer.setInHand (a : Answer) (h : Option InHand) : Answer := { a with state := a.state.setInHand h }

/-- A request's work neither reads nor writes what is in hand. -/
def BlindToHand (work : State → Answer) : Prop := ∀ s h, work (s.setInHand h) = (work s).setInHand h

section
variable {s : State} {h : Option InHand}

theorem ite_answer_setInHand {c : Prop} [Decidable c] {a b a' b' : Answer} (ha : a' = a.setInHand h)
    (hb : b' = b.setInHand h) : (if c then a' else b') = (if c then a else b).setInHand h := by
  rw [ha, hb, apply_ite (Answer.setInHand · h)]

/-- A reply is made ready for the code it answers, whatever was in hand. -/
theorem ready_setInHand {a : Answer} {code : Byte} : (a.setInHand h).ready code = a.ready code := rfl

end

/-! ### Clock, engine state and options -/

theorem setClockWork_blind (value : Nat) : BlindToHand (setClockWork value) := fun _ _ =>
  ite_answer_setInHand rfl (ite_answer_setInHand rfl rfl)

theorem startWork_blind : BlindToHand startWork := fun _ _ =>
  ite_answer_setInHand rfl (ite_answer_setInHand rfl rfl)

theorem stopWork_blind : BlindToHand stopWork := fun s _ =>
  have hstop := triggerCheckpoint_setInHand (s := { s with engine := .stopped })
  ite_answer_setInHand (congrArg (accept · []) hstop) rfl

theorem wipeWork_blind : BlindToHand wipeWork := fun _ _ => ite_answer_setInHand rfl rfl

theorem setOptionsWork_blind (fields : OptionFields) : BlindToHand (setOptionsWork fields) := by
  intro s h
  dsimp only [setOptionsWork]
  cases optionsOf? fields with
  | none => rfl
  | some o => exact ite_answer_setInHand rfl (congrArg (accept · []) putOptions_setInHand)

/-! ### Elements -/

theorem assignElementWork_blind (index : Nat) (fields : SettingFields) (accumulator : Nat) :
    BlindToHand (assignElementWork index fields accumulator) := by
  intro s h
  refine ite_answer_setInHand rfl (ite_answer_setInHand rfl ?_)
  cases settingsOf? fields with
  | none => rfl
  | some v => rfl

theorem replaceElementWork_blind (index : Nat) : BlindToHand (replaceElementWork index) := by
  intro s h
  refine ite_answer_setInHand rfl ?_
  dsimp only [setInHand_fitting?]
  cases s.fitting? index with
  | none => rfl
  | some f => rfl

theorem retireElementWork_blind (index : Nat) : BlindToHand (retireElementWork index) := by
  intro s h
  refine ite_answer_setInHand rfl ?_
  have he : (s.setInHand h).element index = s.element index := rfl
  rw [he]
  cases (s.element index).position with
  | vacant => rfl
  | suspect => rfl
  | assigned f => rfl

theorem setThresholdsWork_blind (index advisory due limit : Nat) :
    BlindToHand (setThresholdsWork index advisory due limit) := by
  intro s h
  refine ite_answer_setInHand rfl ?_
  dsimp only [setInHand_fitting?]
  cases s.fitting? index with
  | none => rfl
  | some f => exact ite_answer_setInHand rfl (ite_answer_setInHand rfl rfl)

theorem setWeightsWork_blind (index : Nat) (fields : WeightFields) : BlindToHand (setWeightsWork index fields) := by
  intro s h
  refine ite_answer_setInHand rfl ?_
  dsimp only [setInHand_fitting?]
  cases s.fitting? index with
  | none => rfl
  | some f =>
    dsimp only
    cases weightsOf? fields f.settings with
    | none => rfl
    | some v => exact congrArg (accept · (u8 index)) reweigh_setInHand

/-! ### The watch and the capture -/

theorem setWatchWork_blind (element : Nat) : BlindToHand (setWatchWork element) := by
  intro s h
  dsimp only [setWatchWork]
  cases elementOrNone? element with
  | none => rfl
  | some watched => rfl

theorem armCaptureWork_blind (level scope : Nat) : BlindToHand (armCaptureWork level scope) := by
  intro s h
  dsimp only [armCaptureWork]
  cases levelOf? level <;> cases elementOrNone? scope <;> rfl

/-! ### Holds -/

theorem waiveHoldWork_blind (index setting : Nat) : BlindToHand (waiveHoldWork index setting) := by
  intro s h
  refine ite_answer_setInHand rfl ?_
  dsimp only [setInHand_fitting?]
  cases s.fitting? index with
  | none => rfl
  | some f =>
    refine ite_answer_setInHand ?_ rfl
    cases boolOf? setting with
    | none => rfl
    | some waived => rfl

theorem abortHoldWork_blind (k : Nat) : BlindToHand (abortHoldWork k) := by
  intro s h
  refine ite_answer_setInHand rfl ?_
  dsimp only [setInHand_hold]
  cases (s.hold.slot k).state <;> cases (s.hold.slot k).transport <;> rfl

theorem releaseHoldWork_blind (t : Nat) : BlindToHand (releaseHoldWork t) := fun _ _ => ite_answer_setInHand rfl rfl

/-! ### The plan -/

theorem addWindowWork_blind (start length capacity : Nat) : BlindToHand (addWindowWork start length capacity) := by
  intro s h
  dsimp only [addWindowWork, setInHand_clock, setInHand_plan]
  cases s.clock with
  | none => rfl
  | some c =>
    refine ite_answer_setInHand ?_ rfl
    cases s.plan.freeSlot? with
    | none => rfl
    | some slot => rfl

theorem removeWindowWork_blind (slot : Nat) : BlindToHand (removeWindowWork slot) := by
  intro s h
  refine ite_answer_setInHand rfl ?_
  dsimp only [setInHand_plan]
  cases s.plan.window slot with
  | none => rfl
  | some w => rfl

theorem pinWork_blind (i slot : Nat) : BlindToHand (pinWork i slot) := by
  intro s h
  refine ite_answer_setInHand rfl ?_
  dsimp only [setInHand_clock, setInHand_fitting?, setInHand_plan]
  match s.clock, s.fitting? i, s.plan.window slot with
  | none, _, _ | some _, none, _ | some _, some _, none => rfl
  | some c, some f, some w => exact ite_answer_setInHand rfl rfl

theorem unpinWork_blind (i : Nat) : BlindToHand (unpinWork i) := by
  intro s h
  refine ite_answer_setInHand rfl ?_
  dsimp only [setInHand_plan]
  cases s.plan.pinnedEntry? i with
  | none => rfl
  | some e => rfl

/-! ### Saves and alerts -/

theorem saveWork_blind : BlindToHand saveWork := by
  intro s h
  dsimp only [saveWork]
  rw [triggerCheckpoint_setInHand]
  exact ite_answer_setInHand rfl rfl

theorem fetchAlertsWork_blind (mask : BitVec 32) : BlindToHand (fetchAlertsWork mask) := fun _ _ =>
  ite_answer_setInHand rfl rfl

theorem setNoticeMaskWork_blind (mask : BitVec 32) : BlindToHand (setNoticeMaskWork mask) := fun _ _ =>
  ite_answer_setInHand rfl rfl

end Sys2Proof.Machine
end

section
/-! The rows of the commands, by power and by what is in hand (R182, R183). -/

namespace Sys2Proof.Machine

/-! ### Reads that choose by their selector -/

theorem readRouteWork_blind (selector : Nat) : BlindToHand fun s =>
    match s.routes.selected? selector with
    | some bytes => accept s bytes
    | none => refuse s .badValue := by
  intro s h
  dsimp only [setInHand_routes]
  cases s.routes.selected? selector with
  | none => rfl
  | some bytes => rfl

theorem readRouteCountsWork_blind (clear : Nat) : BlindToHand fun s =>
    match boolOf? clear with
    | some true => accept s.clearItemCounts s.routeCountBytes
    | some false => accept s s.routeCountBytes
    | none => refuse s .badValue := by
  intro s h
  dsimp only
  match boolOf? clear with
  | some true | some false | none => rfl

/-! ### The row of a request -/

/-- The row of a request takes the request in hand, or takes it now, or completes its frame; what it then executes
does not depend on what is in hand. -/
def RowServes (i : Instr) : Prop :=
  ∃ execute : State → Byte → State,
    (∀ s, exec i s = s.act fun s => s.serveBy i (execute s)) ∧
    ∀ s h code, execute (s.setInHand h) code = execute s code

theorem rowServes_of_request {i : Instr} {work : State → Answer} (hrow : ∀ s, exec i s = s.request i work)
    (hw : BlindToHand work) : RowServes i :=
  ⟨fun s code => (work s).ready code, hrow, fun s h code =>
    show (work (s.setInHand h)).ready code = (work s).ready code by rw [hw, ready_setInHand]⟩

/-- READ SAVE STATUS waits in the middle of a record, and else is answered (R172). -/
def saveStatusReady (s : State) (code : Byte) : State :=
  if s.ckpt.progress.midRecord then s.setInHand (some ⟨code, .executing .readSaveStatus⟩)
  else (accept s s.ckpt.bytes).ready code

theorem readSaveStatus_rowServes : RowServes .readSaveStatus := by
  refine ⟨saveStatusReady, fun s => ?_, fun _ _ _ => rfl⟩
  change s.act (fun s => if s.ckpt.progress.midRecord then s.await .readSaveStatus
    else s.serve .readSaveStatus fun s => accept s s.ckpt.bytes) = _
  congr 1
  funext s
  unfold saveStatusReady
  split <;> rfl

theorem request_rowServes {i : Instr} (h : requestCommand i ≠ none) : RowServes i := by
  cases i with
  | status | restart | readOptions | clearCounts | readWatch | readCapture | readHolds | replan =>
    exact rowServes_of_request (fun _ => rfl) fun _ _ => rfl
  | readElement | listElements | readTransport | readIntervalCounts | readPlan | readWindows =>
    exact rowServes_of_request (fun _ => rfl) fun _ _ => ite_answer_setInHand rfl rfl
  | setMask | setRoute | clearRoute | setCommonPath =>
    exact rowServes_of_request (fun _ => rfl) fun _ _ => ite_answer_setInHand rfl (ite_answer_setInHand rfl rfl)
  | setClock value => exact rowServes_of_request (fun _ => rfl) (setClockWork_blind value)
  | start => exact rowServes_of_request (fun _ => rfl) startWork_blind
  | stop => exact rowServes_of_request (fun _ => rfl) stopWork_blind
  | wipe => exact rowServes_of_request (fun _ => rfl) wipeWork_blind
  | setOptions fields => exact rowServes_of_request (fun _ => rfl) (setOptionsWork_blind fields)
  | assignElement index fields accumulator =>
    exact rowServes_of_request (fun _ => rfl) (assignElementWork_blind index fields accumulator)
  | replaceElement index => exact rowServes_of_request (fun _ => rfl) (replaceElementWork_blind index)
  | retireElement index => exact rowServes_of_request (fun _ => rfl) (retireElementWork_blind index)
  | setThresholds index advisory due limit =>
    exact rowServes_of_request (fun _ => rfl) (setThresholdsWork_blind index advisory due limit)
  | setWeights index fields => exact rowServes_of_request (fun _ => rfl) (setWeightsWork_blind index fields)
  | waiveHold index setting => exact rowServes_of_request (fun _ => rfl) (waiveHoldWork_blind index setting)
  | setWatch element => exact rowServes_of_request (fun _ => rfl) (setWatchWork_blind element)
  | armCapture level scope => exact rowServes_of_request (fun _ => rfl) (armCaptureWork_blind level scope)
  | readRoute selector => exact rowServes_of_request (fun _ => rfl) (readRouteWork_blind selector)
  | readRouteCounts clear => exact rowServes_of_request (fun _ => rfl) (readRouteCountsWork_blind clear)
  | abortHold slot => exact rowServes_of_request (fun _ => rfl) (abortHoldWork_blind slot)
  | releaseHold transport => exact rowServes_of_request (fun _ => rfl) (releaseHoldWork_blind transport)
  | addWindow startAt length capacity =>
    exact rowServes_of_request (fun _ => rfl) (addWindowWork_blind startAt length capacity)
  | removeWindow slot => exact rowServes_of_request (fun _ => rfl) (removeWindowWork_blind slot)
  | pin element slot => exact rowServes_of_request (fun _ => rfl) (pinWork_blind element slot)
  | unpin element => exact rowServes_of_request (fun _ => rfl) (unpinWork_blind element)
  | save => exact rowServes_of_request (fun _ => rfl) saveWork_blind
  | readSaveStatus => exact readSaveStatus_rowServes
  | fetchAlerts mask => exact rowServes_of_request (fun _ => rfl) (fetchAlertsWork_blind mask)
  | setNoticeMask mask => exact rowServes_of_request (fun _ => rfl) (setNoticeMaskWork_blind mask)
  | _ => exact absurd rfl h

/-! ### Where the host link stands -/

section
variable {s : State} {i : Instr} {execute : Byte → State}

theorem serveBy_starting (h : s.host.inHand = none) (he : s.engine = .starting) :
    s.serveBy i execute =
      s.setInHand (some ⟨requestCode i, .ready (bareReply (replyCode (requestCode i)) .starting)⟩) := by
  simp [State.serveBy, h, he]

theorem serveBy_taken (h : s.host.inHand = none) (he : s.engine ≠ .starting) :
    s.serveBy i execute = execute (requestCode i) := by
  simp [State.serveBy, h, he]

/-- A request other than the one in hand is a frame that completes behind it. -/
theorem serveBy_behind {x : InHand} (h : s.host.inHand = some x) (hx : ∀ code, x ≠ ⟨code, .executing i⟩) :
    s.serveBy i execute = { s with host := s.host.complete s.engine (requestFrame i) } := by
  obtain ⟨code, phase⟩ := x
  unfold State.serveBy
  rw [h]
  cases phase with
  | executing j =>
    have hj : j ≠ i := fun hj => hx code (by rw [hj])
    simp only [if_neg hj]
  | _ => rfl

end

/-- The reply code of a request's own code (R182). -/
theorem replyCode_requestCode {i : Instr} (h : requestCommand i ≠ none) :
    replyCode (requestCode i) = requestCode i ||| 0x80 := by
  obtain ⟨command, hc⟩ := Option.ne_none_iff_exists'.1 h
  have hcode : requestCode i = codeOf command false := by simp [requestCode, codeOf, hc]
  have hlt := requestCommand_lt hc
  rw [hcode]
  exact replyCode_of_request (codeOf_msb hlt) (codeOf_ne_reserved hlt)

/-! ### Without power -/

/-- A part without power does nothing but on POWER_ON. -/
theorem exec_unpowered {i : Instr} {s : State} (hp : s.powered = false) (hi : i ≠ .powerOn) :
    exec i s = .next s := by
  by_cases hr : requestCommand i = none
  · cases i with
    | powerOn => exact absurd rfl hi
    | hostReplySent =>
      change execHostReplySent s = _
      unfold execHostReplySent
      cases s.dispatchedNext with
      | none => exact act_unpowered _ hp
      | some j =>
        simp only [hp, Bool.false_and, Bool.false_eq_true, if_false]
        exact act_unpowered _ hp
    | powerLoss => exact congrArg _ (if_neg (by simp [hp]))
    | resetPin | startupEnd | lineRecordArrival | lineRecordAbandoned | takeRecord | lineTxSent
    | holdTimerExpiry | minuteTick | deferralEnd | windowExpiry | intervalBoundary | checkpointRecordWritten
    | hostFrameComplete | hostFrameAbandoned | busyReplySent | noticeSent | lineByteReceived
    | hostByteReceived =>
      simp only [exec, execResetPin, execStartupEnd, execLineRecordArrival, execLineRecordAbandoned, execTakeRecord,
        execLineTxSent, execHoldTimerExpiry, execMinuteTick, execDeferralEnd, execWindowExpiry,
        execIntervalBoundary, execCheckpointRecordWritten, execHostFrameComplete, execHostFrameAbandoned,
        execBusyReplySent, execNoticeSent, execLineByteReceived, execHostByteReceived, act_unpowered _ hp]
    | _ => exact absurd hr (by simp [requestCommand])
  · obtain ⟨execute, hrow, -⟩ := request_rowServes hr
    rw [hrow, act_unpowered _ hp]

/-- Settles O2: the row of a request is the case distinction of `State.serveBy`, and what it executes is blind to what
is in hand, so that a request taken now runs as the same request in hand. -/
theorem rowsByPowerAndHand : Obligations.RowsByPowerAndHand := by
  intro i s
  refine ⟨exec_unpowered, fun hr hp => ?_⟩
  obtain ⟨execute, hrow, hblind⟩ := request_rowServes hr
  refine ⟨fun hin he => ?_, fun hin he => ?_, fun h hin hx => ?_⟩
  · rw [Becomes, hrow, act_powered _ hp, serveBy_starting hin he, replyCode_requestCode hr]
    rfl
  · change _ = exec i (s.setInHand (some ⟨requestCode i, .executing i⟩))
    have hp' : (s.setInHand (some ⟨requestCode i, .executing i⟩)).powered = true := hp
    rw [hrow, hrow, act_powered _ hp, act_powered _ hp', serveBy_taken hin he, serveBy_inHand _ rfl, hblind]
  · rw [Becomes, hrow, act_powered _ hp, serveBy_behind hin hx]

end Sys2Proof.Machine
end

section
/-! A step by what stands at the front of the queue of commands (00_scope.md 4.4). -/

namespace Sys2Proof.Machine

variable {s : State}

theorem step_of_pending_cons {c : Instr} {rest : List Instr} (h : s.pending = c :: rest) :
    step s = exec c { s with pending := rest } := by
  rw [step, h]

/-- Idling with nothing queued is the choice of the model (notes/assumptions/10.md). -/
theorem step_of_pending_nil (h : s.pending = []) : step s = .next s := by
  rw [step, h]

/-- Settles O1: the two arms of the step, a queue with a front and an empty one. -/
theorem stepExecutesFront : Obligations.StepExecutesFront :=
  ⟨fun _ _ _ => step_of_pending_cons, fun _ => step_of_pending_nil⟩

end Sys2Proof.Machine
end
